-- ==== Sys2Proof/Word.lean ====
section
/-! DEFINITION. The word and byte types (10_state.md R21: the register port has 32-bit registers; 20_memory.md
R40, R42: bytes). -/

namespace Sys2Proof

/-- A 32-bit word: a register, a command, a LUT entry or a pixel. -/
abbrev Word := BitVec 32

/-- An 8-bit byte: a channel value, a byte of a compressed block or of the output memory. -/
abbrev Byte := BitVec 8

end Sys2Proof
end

