-- ==== Sys2Proof/Syntax.lean ====
section
/-! DEFINITION. The commands of spec/opcode_table.json as abstract syntax, one constructor per row
(30_encoding.md R61, R65). -/

namespace Sys2Proof

/-- A command of the block. -/
inductive Instr where
  /-- NOP (43_control.md R150). -/
  | nop
  /-- SET_FORMAT with its 8-bit FMTSEL (40_format_and_lut.md R82; 30_encoding.md R62). -/
  | setFormat (fmtsel : BitVec 8)
  /-- DECODE_BLOCK with the clip counts VW = VW1 + 1 and VH = VH1 + 1, as the script syntax `decblk vw, vh` writes
  them (41_block_decode.md R100; 30_encoding.md R63, R68). -/
  | decodeBlock (vw vh : Nat)
  /-- CLEAR_ERR (43_control.md R151). -/
  | clearErr
deriving DecidableEq, Repr

end Sys2Proof
end

