-- ==== Sys2Proof/WellFormed.lean ====
section
/-! DEFINITION. Which commands a word can encode: VW and VH are "each in 1..4" (30_encoding.md R63); every FMTSEL of
8 bits is legal (R62). -/

namespace Sys2Proof

/-- A clip count that a 2-bit field holds (30_encoding.md R63). -/
def clipCountOk (n : Nat) : Bool := decide (1 ≤ n) && decide (n ≤ 4)

/-- The command has an encoding. -/
def Instr.wf : Instr → Bool
  | .nop => true
  | .setFormat _ => true
  | .decodeBlock vw vh => clipCountOk vw && clipCountOk vh
  | .clearErr => true

end Sys2Proof
end

