-- ==== Sys2Proof/Decode.lean ====
section
/-! DEFINITION. The command decoder, total on the 2^32 words (30_encoding.md R65, R66), and the encoder written from
the same formats (R61). A command never stands in memory: the host writes it, one whole word, to CMD (R60). -/

namespace Sys2Proof

/-- One row of the opcode map (30_encoding.md R65): a word w is this row's command exactly when w and the mask give
the pattern; `operands` reads the row's fields (R61 to R63). -/
inductive Opcode where
  | nop
  | setFormat
  | decodeBlock
  | clearErr
deriving DecidableEq, Repr

/-- A row's match and mask words. -/
structure OpcodeRow where
  op : Opcode
  pattern : Word
  mask : Word
deriving DecidableEq, Repr

/-- Why a word is no command (30_encoding.md R66). -/
inductive Reject where
  /-- OPC is 0x4 to 0xF. -/
  | reservedOpcode (opc : BitVec 4)
  /-- OPC is legal and a reserved bit is set. -/
  | reservedBits (opc : BitVec 4)
deriving DecidableEq, Repr

/-- The opcode map (30_encoding.md R65). -/
def opcodeTable : List OpcodeRow :=
  [ ⟨.nop, 0x00000000, 0xFFFFFFFF⟩,
    ⟨.setFormat, 0x00000001, 0xFFFF00FF⟩,
    ⟨.decodeBlock, 0x00000002, 0xFFFFF0FF⟩,
    ⟨.clearErr, 0x00000003, 0xFFFFFFFF⟩ ]

/-- "A word w is the command of a row exactly when (w & mask) == match" (30_encoding.md R65). -/
def OpcodeRow.hits (r : OpcodeRow) (w : Word) : Bool := w &&& r.mask == r.pattern

/-- OPC, bits [3:0] (30_encoding.md R61). -/
def opcField (w : Word) : BitVec 4 := w.extractLsb' 0 4

/-- FMTSEL, bits [15:8] (30_encoding.md R62). -/
def fmtselField (w : Word) : BitVec 8 := w.extractLsb' 8 8

/-- VW = zext(w[9:8]) + 1 (30_encoding.md R63). -/
def clipWidthField (w : Word) : Nat := (w.extractLsb' 8 2).toNat + 1

/-- VH = zext(w[11:10]) + 1 (30_encoding.md R63). -/
def clipHeightField (w : Word) : Nat := (w.extractLsb' 10 2).toNat + 1

/-- The command of a row, its operands read from the word. -/
def Opcode.operands (op : Opcode) (w : Word) : Instr :=
  match op with
  | .nop => .nop
  | .setFormat => .setFormat (fmtselField w)
  | .decodeBlock => .decodeBlock (clipWidthField w) (clipHeightField w)
  | .clearErr => .clearErr

/-- The name of what is wrong with a word that no row matches (30_encoding.md R66). -/
def rejectReason (w : Word) : Reject :=
  if 4 ≤ (opcField w).toNat then .reservedOpcode (opcField w) else .reservedBits (opcField w)

/-- The decoder: "every one of the 2^32 words is either exactly one command of rule R65 or illegal"
(30_encoding.md R66). -/
def decode (w : Word) : Except Reject Instr :=
  match opcodeTable.find? (fun r => r.hits w) with
  | some r => .ok (r.op.operands w)
  | none => .error (rejectReason w)

/-- The encoder, from the formats N, F and D (30_encoding.md R61, R68). On a DECODE_BLOCK that is not well-formed it
follows the same formula (DESIGN CHOICE, log 23). -/
def encode : Instr → Word
  | .nop => 0x00000000
  | .setFormat fmtsel => 0x00000001 ||| (fmtsel.setWidth 32 <<< 8)
  | .decodeBlock vw vh => 0x00000002 ||| (BitVec.ofNat 32 (vw - 1) <<< 8) ||| (BitVec.ofNat 32 (vh - 1) <<< 10)
  | .clearErr => 0x00000003

/-- The first nbits bits of w as one command word, the bits above them zero; none where they do not fit in the one
command length there is (30_encoding.md R60). -/
def commandWord (nbits w : Nat) : Option Word :=
  if w % 2 ^ nbits < 2 ^ 32 then some (BitVec.ofNat 32 (w % 2 ^ nbits)) else none

/-- What the decoder reads from a word numbered as opcode_table.json numbers it. -/
def decodeTableWord (nbits w : Nat) : Option Instr :=
  match commandWord nbits w with
  | some v =>
    match decode v with
    | .ok i => some i
    | .error _ => none
  | none => none

end Sys2Proof
end

