-- ==== Sys2Proof/Config.lean ====
section
/-! DEFINITION. What an implementation fixes and the spec leaves open: the parameters of 00_scope.md R6 as plain
data, and the free values, which have no body. The functions over the parameters are in Machine/Lut.lean. -/

namespace Sys2Proof

/-- BLEND_ORDER (00_scope.md R6, 92_eei_decisions.md D6): whether palette slots 2 and 3 are blended from the
expanded 8-bit values or from the raw codes. -/
inductive BlendOrder where
  | expandThenBlend
  | blendThenExpand
deriving DecidableEq, Repr

/-- The parameters a model takes as arguments (00_scope.md R6). COLOR_EXPAND5 : Fin 32 → UInt8 and COLOR_EXPAND6 :
Fin 64 → UInt8 are kept as their tables of values, so that a machine is plain data (log 2). -/
structure Params where
  /-- OUT_WORDS: the number of 32-bit words of the output memory. -/
  outWords : Nat
  /-- COLOR_EXPAND5, entry c for the code c. -/
  expand5 : Vector Byte 32
  /-- COLOR_EXPAND6, entry c for the code c. -/
  expand6 : Vector Byte 64
  /-- BLEND_ORDER. -/
  blendOrder : BlendOrder
deriving DecidableEq, Repr

/-- FREE VALUE (log 4). What byte a of the output memory holds from power-up until something writes it: "its content
after power-up is unspecified (a model draws it)" (10_state.md R29; 93_implementation_defined.md S1). -/
opaque Config.powerUpByte : Nat → BitVec 8

/-- FREE VALUE (logs 6 and 9). The k-th count the model draws: how many OutWrites of an interrupted command have
happened, "and which prefix (from none to all) is unspecified: a model draws it" (70_reset_and_hazards.md R182). -/
opaque Config.freeCount : Nat → Nat

end Sys2Proof
end

