-- ==== Sys2Proof/Machine/Lut.lean ====
section
/-! DEFINITION. Pixel formats, channel shifts, the colour palette and the LUT builder as functions of the parameters
and the shifts (10_state.md R24, R25, R27; 40_format_and_lut.md R81, R84, R86, R88, R90, R91, R96). -/

namespace Sys2Proof

/-- COLOR_EXPAND5 (00_scope.md R6). -/
def Params.colorExpand5 (p : Params) (c : BitVec 5) : Byte := p.expand5.get c.toFin

/-- COLOR_EXPAND6 (00_scope.md R6). -/
def Params.colorExpand6 (p : Params) (c : BitVec 6) : Byte := p.expand6.get c.toFin

/-- Bit replication of a 5-bit code, the default COLOR_EXPAND5 (40_format_and_lut.md R96). -/
def replicate5 (c : Nat) : Byte := BitVec.ofNat 8 ((c <<< 3) ||| (c >>> 2))

/-- Bit replication of a 6-bit code, the default COLOR_EXPAND6 (40_format_and_lut.md R96). -/
def replicate6 (c : Nat) : Byte := BitVec.ofNat 8 ((c <<< 2) ||| (c >>> 4))

/-- The spec's default parameters with n output words; OUT_WORDS has no default (00_scope.md R6). -/
def Params.withOutWords (n : Nat) : Params :=
  { outWords := n
    expand5 := Vector.ofFn fun c => replicate5 c.val
    expand6 := Vector.ofFn fun c => replicate6 c.val
    blendOrder := .expandThenBlend }

/-- What the parameters must satisfy: 1 ≤ OUT_WORDS ≤ 2^32 (00_scope.md R6), and 0 → 0, red or blue 31 → 255
(00_scope.md R7). -/
abbrev Params.wf (p : Params) : Prop :=
  1 ≤ p.outWords ∧ p.outWords ≤ 2 ^ 32 ∧
    p.colorExpand5 0 = 0 ∧ p.colorExpand5 31 = 255 ∧ p.colorExpand6 0 = 0

namespace Machine

/-- The pixel formats (10_state.md R24). -/
inductive PixelFormat where
  | bgra
  | rgba
  | argb
  | abgr
deriving DecidableEq, Repr

/-- The 2-bit code FORMAT holds (10_state.md R24). -/
def PixelFormat.code : PixelFormat → BitVec 2
  | .bgra => 0
  | .rgba => 1
  | .argb => 2
  | .abgr => 3

/-- The values a channel shift register holds: "one of the values 0, 8, 16, 24" (10_state.md R25). -/
inductive Shift where
  | s0
  | s8
  | s16
  | s24
deriving DecidableEq, Repr

/-- The bit position a shift stands for. -/
def Shift.bits : Shift → Nat
  | .s0 => 0
  | .s8 => 8
  | .s16 => 16
  | .s24 => 24

/-- SHIFT_B, SHIFT_G, SHIFT_R and SHIFT_A (10_state.md R25). -/
structure Shifts where
  b : Shift
  g : Shift
  r : Shift
  a : Shift
deriving DecidableEq, Repr

/-- Shifts(fmt): the fixed table of 10_state.md R25 (40_format_and_lut.md R81). -/
def PixelFormat.shifts : PixelFormat → Shifts
  | .bgra => { b := .s0, g := .s8, r := .s16, a := .s24 }
  | .rgba => { b := .s16, g := .s8, r := .s0, a := .s24 }
  | .argb => { b := .s24, g := .s16, r := .s8, a := .s0 }
  | .abgr => { b := .s8, g := .s16, r := .s24, a := .s0 }

/-- One LUT memory of 2^n words, kept as a binary tree that the index bits walk from bit 0 up: the 24592 entries of
the four LUTs are then plain data that a proof or a test can read one entry of (10_state.md R27; log 14). -/
inductive Lut where
  | leaf (v : Word)
  | node (even odd : Lut)
deriving DecidableEq, Repr

/-- The entry at index i. -/
def Lut.read : Lut → Nat → Word
  | .leaf v, _ => v
  | .node even odd, i => if i % 2 = 0 then even.read (i / 2) else odd.read (i / 2)

/-- The LUT of 2^n entries that holds f i at index i: every entry is written, none kept (40_format_and_lut.md
R84). -/
def Lut.ofFn : Nat → (Nat → Word) → Lut
  | 0, f => .leaf (f 0)
  | n + 1, f => .node (Lut.ofFn n fun i => f (2 * i)) (Lut.ofFn n fun i => f (2 * i + 1))

/-- An 8-bit channel value at bits [SHIFT+7 : SHIFT], all other bits 0 (10_state.md R27). -/
def lane (sh : Shift) (v : Byte) : Word := v.setWidth 32 <<< sh.bits

/-- The blend two parts `near` and one part `far`, divided by 3 with floor, in the domain BLEND_ORDER names: the
8-bit expansions or the raw codes (40_format_and_lut.md R91). -/
def thirdBlend {k : Nat} (order : BlendOrder) (expand : BitVec k → Byte) (near far : BitVec k) : Byte :=
  match order with
  | .expandThenBlend => BitVec.ofNat 8 ((2 * (expand near).toNat + (expand far).toNat) / 3)
  | .blendThenExpand => expand (BitVec.ofNat k ((2 * near.toNat + far.toNat) / 3))

/-- Pal(k, c0, c1, s): the four-colour palette, whatever the order of c0 and c1 (40_format_and_lut.md R91, R92,
R93). -/
def palette {k : Nat} (order : BlendOrder) (expand : BitVec k → Byte) (c0 c1 : BitVec k) (slot : BitVec 2) : Byte :=
  if slot = 0 then expand c0
  else if slot = 1 then expand c1
  else if slot = 2 then thirdBlend order expand c0 c1
  else thirdBlend order expand c1 c0

/-- Pal(5, c0, c1, s) under the parameters. -/
def palette5 (p : Params) (c0 c1 : BitVec 5) (slot : BitVec 2) : Byte :=
  palette p.blendOrder p.colorExpand5 c0 c1 slot

/-- Pal(6, c0, c1, s) under the parameters. -/
def palette6 (p : Params) (c0 c1 : BitVec 6) (slot : BitVec 2) : Byte :=
  palette p.blendOrder p.colorExpand6 c0 c1 slot

/-- The index of a red or blue entry: ((c0 << 5) | c1) << 2 | slot (10_state.md R27; 40_format_and_lut.md R90). -/
def index5 (c0 c1 : BitVec 5) (slot : BitVec 2) : BitVec 12 :=
  (((c0.setWidth 12 <<< 5) ||| c1.setWidth 12) <<< 2) ||| slot.setWidth 12

/-- The index of a green entry: ((c0 << 6) | c1) << 2 | slot (10_state.md R27; 40_format_and_lut.md R90). -/
def index6 (c0 c1 : BitVec 6) (slot : BitVec 2) : BitVec 14 :=
  (((c0.setWidth 14 <<< 6) ||| c1.setWidth 14) <<< 2) ||| slot.setWidth 14

/-- The alpha ramp value 17 * a (40_format_and_lut.md R88, R89). -/
def alphaRamp (a : BitVec 4) : Byte := BitVec.ofNat 8 (17 * a.toNat)

/-- BuildALUT (40_format_and_lut.md R88). -/
def buildAlut (sh : Shifts) : Lut :=
  Lut.ofFn 4 fun i => lane sh.a (alphaRamp (BitVec.ofNat 4 i))

/-- The entries of RLUT and BLUT: index i holds the palette value of c0 = i[11:7], c1 = i[6:2] and slot i[1:0]
(40_format_and_lut.md R90). -/
def buildLut5 (p : Params) (sh : Shift) : Lut :=
  Lut.ofFn 12 fun i =>
    lane sh (palette5 p (BitVec.ofNat 5 (i / 128)) (BitVec.ofNat 5 (i / 4)) (BitVec.ofNat 2 i))

/-- The entries of GLUT: index i holds the palette value of c0 = i[13:8], c1 = i[7:2] and slot i[1:0]
(40_format_and_lut.md R90). -/
def buildLut6 (p : Params) (sh : Shift) : Lut :=
  Lut.ofFn 14 fun i =>
    lane sh (palette6 p (BitVec.ofNat 6 (i / 256)) (BitVec.ofNat 6 (i / 4)) (BitVec.ofNat 2 i))

/-- BuildRLUT (40_format_and_lut.md R90). -/
def buildRlut (p : Params) (sh : Shifts) : Lut := buildLut5 p sh.r

/-- BuildGLUT (40_format_and_lut.md R90). -/
def buildGlut (p : Params) (sh : Shifts) : Lut := buildLut6 p sh.g

/-- BuildBLUT (40_format_and_lut.md R90). -/
def buildBlut (p : Params) (sh : Shifts) : Lut := buildLut5 p sh.b

end Machine

end Sys2Proof
end

