-- ==== Sys2Proof/Machine/State.lean ====
section
/-! DEFINITION. The state of the block, of its output memory and of the host that drives it (10_state.md R20 to R30),
the reasons a step can stop, and the state after reset (10_state.md R30). -/

namespace Sys2Proof.Machine

/-- The error codes STATUS.ERR holds; codes 4 to 15 are never produced (60_exceptions.md R160;
93_implementation_defined.md S6). -/
inductive ErrCode where
  | none
  | illegalCmd
  | bounds
  | badAccess
deriving DecidableEq, Repr

/-- The output memory as (byte address, byte) pairs, addresses strictly rising. A byte that is not listed has not been
written since power-up (10_state.md R29; log 4). -/
abbrev Memory := List Host.Cell

/-- One access of the host to the register port: a byte offset and a size in bytes; a full access has 4
(20_memory.md R44). -/
structure Access where
  offset : Nat
  size : Nat
deriving DecidableEq, Repr

/-- What the host side can do to the block and to OUTMEM (60_exceptions.md R173). -/
inductive HostAction where
  /-- A register read (43_control.md R152). -/
  | read (acc : Access)
  /-- A register write of v (43_control.md R153); a write to CMD issues one command. -/
  | write (acc : Access) (v : Word)
  /-- A read of the OUTMEM word at pixel address a, between commands (10_state.md R29). -/
  | readOut (a : Nat)
  /-- A write of the OUTMEM word at pixel address a, between commands (10_state.md R29). -/
  | writeOut (a : Nat) (v : Word)
  /-- Reset asserted between commands (70_reset_and_hazards.md R180). -/
  | reset
  /-- Reset asserted while the command of the CMD write of w executes (70_reset_and_hazards.md R182). -/
  | resetDuring (w : Word)
  /-- A CMD write of w, and a read of the OUTMEM word at a that the platform makes while the command executes, against
  its duty (20_memory.md R53; 60_exceptions.md R172 b). One such read a command, and none in a command that a reset
  abandons: the spec sets no limit (DESIGN CHOICE, log 9). -/
  | readOutDuring (w : Word) (a : Nat)
deriving DecidableEq, Repr

/-- The state: the block's registers, error field, format state and LUT state (10_state.md R20 a to d), the output
memory (R29), and the model's own fields. -/
structure State where
  /-- BLK0: block bytes 0..3 (10_state.md R21). -/
  blk0 : Word
  /-- BLK1: block bytes 4..7. -/
  blk1 : Word
  /-- BLK2: color0 in bits [15:0], color1 in bits [31:16]. -/
  blk2 : Word
  /-- BLK3: block bytes 12..15, the colour indices. -/
  blk3 : Word
  /-- DST: output pixel address of texel 0. -/
  dst : Word
  /-- STRIDE: row stride of the output in pixels. -/
  stride : Word
  /-- ERR, the only storage of the error state (10_state.md R22). -/
  err : ErrCode
  /-- FORMAT (10_state.md R24). -/
  format : PixelFormat
  /-- SHIFT_B, SHIFT_G, SHIFT_R, SHIFT_A (10_state.md R25). -/
  shifts : Shifts
  /-- LUT_VALID (10_state.md R26). -/
  lutValid : Bool
  /-- ALUT, 16 entries (10_state.md R27). -/
  alut : Lut
  /-- RLUT, 4096 entries. -/
  rlut : Lut
  /-- GLUT, 16384 entries. -/
  glut : Lut
  /-- BLUT, 4096 entries. -/
  blut : Lut
  /-- OUTMEM in its byte view (10_state.md R29; 20_memory.md R42). -/
  outmem : Memory
  /-- The model's own: what the host does next, oldest first (log 1). -/
  script : List HostAction
  /-- The model's own: the values the host's script has recorded, newest first (30_encoding.md R68; log 15). -/
  reads : List Word
  /-- The model's own: how many free counts have been drawn (logs 6 and 9). -/
  draws : Nat
  /-- The model's own: the parameters of 00_scope.md R6, which no step changes (log 2). -/
  params : Params
deriving DecidableEq, Repr

/-- Why a step can stop with a fault. -/
inductive Fault where
  /-- The HOST reads or writes an OUTMEM word at an address at or past OUT_WORDS, which does not exist (20_memory.md
  R47 b; log 16). Raised by the host actions readOut, writeOut and readOutDuring, never by a command. Safe: the model
  stops where the spec says nothing. -/
  | outsideOutmem (a : Nat)
deriving DecidableEq, Repr

/-- Why a step can refuse. -/
inductive Refusal where
  /-- The instruction has no meaning yet; raised by exec's refused arms only, and there is none. Safe. -/
  | notModelled (mnemonic : String)
deriving DecidableEq, Repr

/-- The state after reset with the parameters p and the output memory m, which reset does not touch
(10_state.md R30). -/
def State.resetWith (p : Params) (m : Memory) : State :=
  { blk0 := 0, blk1 := 0, blk2 := 0, blk3 := 0, dst := 0, stride := 0
    err := .none
    format := .bgra
    shifts := PixelFormat.bgra.shifts
    lutValid := true
    alut := buildAlut PixelFormat.bgra.shifts
    rlut := buildRlut p PixelFormat.bgra.shifts
    glut := buildGlut p PixelFormat.bgra.shifts
    blut := buildBlut p PixelFormat.bgra.shifts
    outmem := m
    script := [], reads := [], draws := 0
    params := p }

/-- The machine right after reset (10_state.md R30), with the spec's default parameters, the largest OUT_WORDS the
spec allows (DESIGN CHOICE, log 3) and no OUTMEM byte written. -/
def State.reset : State := State.resetWith (Params.withOutWords (2 ^ 32)) []

end Sys2Proof.Machine
end

