-- ==== Sys2Proof/Machine/Flags.lean ====
section
/-! DEFINITION. The error field and the STATUS word (10_state.md R22; 60_exceptions.md R160, R161). -/

namespace Sys2Proof.Machine

/-- The 4-bit code of an error (60_exceptions.md R160). -/
def ErrCode.code : ErrCode → BitVec 4
  | .none => 0
  | .illegalCmd => 1
  | .bounds => 2
  | .badAccess => 3

/-- "if ERR == NONE: ERR <- code", the first error is kept (60_exceptions.md R161). -/
def ErrCode.record (held new : ErrCode) : ErrCode :=
  match held with
  | .none => new
  | .illegalCmd => .illegalCmd
  | .bounds => .bounds
  | .badAccess => .badAccess

/-- A read of STATUS: zext_32({ERR, 2'b00, FORMAT}) (10_state.md R22). -/
def State.statusWord (s : State) : Word := (s.err.code ++ 0#2 ++ s.format.code).setWidth 32

/-- STATUS.ERR of a STATUS word, bits [7:4] (10_state.md R22). -/
def statusErrField (w : Word) : BitVec 4 := w.extractLsb' 4 4

/-- STATUS.FMT of a STATUS word, bits [1:0] (10_state.md R22). -/
def statusFmtField (w : Word) : BitVec 2 := w.extractLsb' 0 2

end Sys2Proof.Machine
end

