-- ==== Sys2Proof/Machine/Ops.lean ====
section
/-! DEFINITION. The shared operations: byte order, the output memory, raising and clearing an error, the register map
(20_memory.md, 43_control.md R152, R153, 60_exceptions.md R161). -/

namespace Sys2Proof.Machine

/-! ## Byte order -/

/-- Byte k of a word: bits [8k+7 : 8k] (20_memory.md R42). -/
def byteOf (w : Word) (k : Nat) : Byte := w.extractLsb' (8 * k) 8

/-- The word of four bytes, the first the least significant (20_memory.md R42). -/
def wordOf (b0 b1 b2 b3 : Byte) : Word := b3 ++ b2 ++ b1 ++ b0

/-- Byte o of a byte buffer; past its end a byte reads as 0, a case no rule reaches (log 21). -/
def bufferByte (b : List Byte) (o : Nat) : Byte := b[o]?.getD 0

/-- LE16(b, o) (20_memory.md R40). -/
def le16 (b : List Byte) (o : Nat) : BitVec 16 := bufferByte b (o + 1) ++ bufferByte b o

/-- LE32(b, o) (20_memory.md R40). -/
def le32 (b : List Byte) (o : Nat) : Word := le16 b (o + 2) ++ le16 b o

/-- LE64(b, o) (20_memory.md R40). -/
def le64 (b : List Byte) (o : Nat) : BitVec 64 := le32 b (o + 4) ++ le32 b o

/-! ## The output memory -/

/-- The canonical form: addresses strictly rising. What an unlisted address reads as is no value that an entry could
equal (log 4). -/
abbrev Memory.wf (m : Memory) : Prop := m.Pairwise fun x y => x.1 < y.1

/-- The byte written last at a, if any was. -/
def Memory.byte? : Memory → Nat → Option Byte
  | [], _ => none
  | (b, v) :: m, a => if b = a then some v else Memory.byte? m a

/-- What a byte of OUTMEM reads as: the byte written last, or what it holds from power-up (10_state.md R29). -/
def Memory.readByte (m : Memory) (a : Nat) : Byte := (Memory.byte? m a).getD (Config.powerUpByte a)

/-- Write one byte, keeping the addresses strictly rising. -/
def Memory.writeByte : Memory → Nat → Byte → Memory
  | [], a, v => [(a, v)]
  | (b, w) :: m, a, v =>
    if a < b then (a, v) :: (b, w) :: m
    else if a = b then (a, v) :: m
    else (b, w) :: Memory.writeByte m a v

/-- The 32-bit word at pixel address a, in the little-endian byte view (20_memory.md R42). -/
def Memory.readWord (m : Memory) (a : Nat) : Word :=
  wordOf (Memory.readByte m (4 * a)) (Memory.readByte m (4 * a + 1)) (Memory.readByte m (4 * a + 2))
    (Memory.readByte m (4 * a + 3))

/-- OutWrite(a, v): write the whole word at pixel address a (20_memory.md R42, R43). -/
def Memory.writeWord (m : Memory) (a : Nat) (v : Word) : Memory :=
  Memory.writeByte (Memory.writeByte (Memory.writeByte (Memory.writeByte m (4 * a) (byteOf v 0)) (4 * a + 1)
    (byteOf v 1)) (4 * a + 2) (byteOf v 2)) (4 * a + 3) (byteOf v 3)

/-- A list of OutWrites (address, word), made in the order of the list (20_memory.md R52). -/
def Memory.writeWords : Memory → List (Nat × Word) → Memory
  | m, [] => m
  | m, (a, v) :: ws => Memory.writeWords (Memory.writeWord m a v) ws

/-- The OutWrites on the output memory. -/
def State.outWrites (s : State) (ws : List (Nat × Word)) : State :=
  { s with outmem := Memory.writeWords s.outmem ws }

/-- The address is a word of OUTMEM: "pixel addresses 0 to OUT_WORDS−1" (20_memory.md R47 b). -/
def State.hasOutWord (s : State) (a : Nat) : Bool := decide (a < s.params.outWords)

/-! ## Errors: raising one, and the return from it -/

/-- raise Error(code): sets ERR if none is held, and has no other effect; there is no trap entry
(60_exceptions.md R161, R166). -/
def State.raise (s : State) (code : ErrCode) : State := { s with err := s.err.record code }

/-- Return from an error: ERR becomes NONE, nothing else is restored (60_exceptions.md R167; 43_control.md R151). -/
def State.clearError (s : State) : State := { s with err := .none }

/-! ## The register port -/

/-- The eight registers of the port (10_state.md R21). -/
inductive Reg where
  | cmd
  | status
  | blk0
  | blk1
  | blk2
  | blk3
  | dst
  | stride
deriving DecidableEq, Repr

/-- The byte offset of a register (10_state.md R21). -/
def Reg.offset : Reg → Nat
  | .cmd => 0x00
  | .status => 0x04
  | .blk0 => 0x08
  | .blk1 => 0x0C
  | .blk2 => 0x10
  | .blk3 => 0x14
  | .dst => 0x18
  | .stride => 0x1C

/-- The full 32-bit access to a register. -/
def Reg.access (r : Reg) : Access := { offset := r.offset, size := 4 }

/-- The register an access reaches: none at an unmapped offset, and none for an access that is not a full 32-bit
access at a multiple of 4 (10_state.md R21; 20_memory.md R44). -/
def Access.reg? (acc : Access) : Option Reg :=
  if acc.size ≠ 4 then none
  else if acc.offset = 0x00 then some .cmd
  else if acc.offset = 0x04 then some .status
  else if acc.offset = 0x08 then some .blk0
  else if acc.offset = 0x0C then some .blk1
  else if acc.offset = 0x10 then some .blk2
  else if acc.offset = 0x14 then some .blk3
  else if acc.offset = 0x18 then some .dst
  else if acc.offset = 0x1C then some .stride
  else none

/-- RegRead: the value of a host read; CMD, an unmapped offset and an access that is not full read 0
(43_control.md R152). -/
def State.readReg (s : State) (acc : Access) : Word :=
  match acc.reg? with
  | some .status => s.statusWord
  | some .blk0 => s.blk0
  | some .blk1 => s.blk1
  | some .blk2 => s.blk2
  | some .blk3 => s.blk3
  | some .dst => s.dst
  | some .stride => s.stride
  | some .cmd => 0
  | none => 0

/-- The host's script records a value it read (30_encoding.md R68). -/
def State.recordRead (s : State) (v : Word) : State := { s with reads := v :: s.reads }

/-- The host's script, replaced (log 1). -/
def State.withScript (s : State) (acts : List HostAction) : State := { s with script := acts }

/-- The next free count, and the counter advanced (log 6). -/
def State.freeCount (s : State) : Nat := Config.freeCount s.draws

/-- One free count has been drawn. -/
def State.drawn (s : State) : State := { s with draws := s.draws + 1 }

end Sys2Proof.Machine
end

