-- ==== Sys2Proof/Machine/Operands.lean ====
section
/-! DEFINITION. Operand assembly: the resolved format, the fields of the block held in BLK0..BLK3, the texel codes,
the LUT indices and the texel addresses (30_encoding.md R62 to R64; 41_block_decode.md R101 to R109). -/

namespace Sys2Proof.Machine

/-- fmt = FMTSEL when FMTSEL <= 3, and BGRA when FMTSEL >= 4 (30_encoding.md R62). -/
def resolveFormat (fmtsel : BitVec 8) : PixelFormat :=
  if fmtsel = 0 then .bgra
  else if fmtsel = 1 then .rgba
  else if fmtsel = 2 then .argb
  else if fmtsel = 3 then .abgr
  else .bgra

/-- A = {BLK1, BLK0}, the alpha codes (41_block_decode.md R101). -/
def State.alphaCodes (s : State) : BitVec 64 := s.blk1 ++ s.blk0

/-- C0 = BLK2[15:0] (41_block_decode.md R101). -/
def State.color0 (s : State) : BitVec 16 := s.blk2.extractLsb' 0 16

/-- C1 = BLK2[31:16] (41_block_decode.md R101). -/
def State.color1 (s : State) : BitVec 16 := s.blk2.extractLsb' 16 16

/-- IX = BLK3, the colour indices (41_block_decode.md R101). -/
def State.colorIndices (s : State) : Word := s.blk3

/-- The red code of an RGB565 colour: bits [15:11] (41_block_decode.md R102). -/
def red565 (c : BitVec 16) : BitVec 5 := c.extractLsb' 11 5

/-- The green code of an RGB565 colour: bits [10:5] (41_block_decode.md R102). -/
def green565 (c : BitVec 16) : BitVec 6 := c.extractLsb' 5 6

/-- The blue code of an RGB565 colour: bits [4:0] (41_block_decode.md R102). -/
def blue565 (c : BitVec 16) : BitVec 5 := c.extractLsb' 0 5

/-- ccr = ((r0 << 5) | r1) << 2 (41_block_decode.md R103). -/
def State.ccr (s : State) : BitVec 12 := index5 (red565 s.color0) (red565 s.color1) 0

/-- ccg = ((g0 << 6) | g1) << 2 (41_block_decode.md R103). -/
def State.ccg (s : State) : BitVec 14 := index6 (green565 s.color0) (green565 s.color1) 0

/-- ccb = ((b0 << 5) | b1) << 2 (41_block_decode.md R103). -/
def State.ccb (s : State) : BitVec 12 := index5 (blue565 s.color0) (blue565 s.color1) 0

/-- The alpha code of texel i: A[4i+3 : 4i] (41_block_decode.md R104). -/
def State.alphaCode (s : State) (i : Nat) : BitVec 4 := s.alphaCodes.extractLsb' (4 * i) 4

/-- The colour index of texel i: IX[2i+1 : 2i] (41_block_decode.md R104). -/
def State.colorIndex (s : State) (i : Nat) : BitVec 2 := s.colorIndices.extractLsb' (2 * i) 2

/-- row = i / 4 (00_scope.md R10). -/
def texelRow (i : Nat) : Nat := i / 4

/-- col = i % 4 (00_scope.md R10). -/
def texelCol (i : Nat) : Nat := i % 4

/-- The texel is inside the clip: row < VH and col < VW (41_block_decode.md R107). -/
def inClip (vw vh i : Nat) : Bool := decide (texelRow i < vh) && decide (texelCol i < vw)

/-- The texels of a block inside the clip, in ascending order (41_block_decode.md R107; 20_memory.md R52). -/
def clipTexels (vw vh : Nat) : List Nat := (List.range 16).filter (inClip vw vh)

/-- DST + row * STRIDE + col on unbounded naturals (41_block_decode.md R107, R112). -/
def State.texelAddress (s : State) (i : Nat) : Nat := s.dst.toNat + texelRow i * s.stride.toNat + texelCol i

/-- last = DST + (VH − 1) * STRIDE + (VW − 1) on unbounded naturals (41_block_decode.md R108, R112). -/
def State.lastAddress (s : State) (vw vh : Nat) : Nat := s.dst.toNat + (vh - 1) * s.stride.toNat + (vw - 1)

end Sys2Proof.Machine
end

