-- ==== Sys2Proof/Machine/BlockDecode.lean ====
section
/-! DEFINITION. DECODE_BLOCK (41_block_decode.md). -/

namespace Sys2Proof.Machine

/-- p = ALUT[ac] | RLUT[ccr | ix] | GLUT[ccg | ix] | BLUT[ccb | ix] (41_block_decode.md R105). -/
def State.pixel (s : State) (i : Nat) : Word :=
  let ix := s.colorIndex i
  s.alut.read (s.alphaCode i).toNat ||| s.rlut.read (s.ccr ||| ix.setWidth 12).toNat |||
    s.glut.read (s.ccg ||| ix.setWidth 14).toNat ||| s.blut.read (s.ccb ||| ix.setWidth 12).toNat

/-- The largest address inside the clip is a word of OUTMEM (41_block_decode.md R108). -/
def State.inBounds (s : State) (vw vh : Nat) : Bool := decide (s.lastAddress vw vh < s.params.outWords)

/-- The OutWrites of the texels inside the clip, in texel order (41_block_decode.md R100, R107, R109). -/
def State.texelWrites (s : State) (vw vh : Nat) : List (Nat × Word) :=
  (clipTexels vw vh).map fun i => (s.texelAddress i, s.pixel i)

/-- The body of DECODE_BLOCK: one bounds check, then the texel writes (41_block_decode.md R100, R108). -/
def State.decodeBlock (s : State) (vw vh : Nat) : State :=
  if s.inBounds vw vh then s.outWrites (s.texelWrites vw vh) else s.raise .bounds

/-- DECODE_BLOCK (41_block_decode.md R100); discarded while an error is pending (60_exceptions.md R163; log 12). -/
def execDecodeBlock (vw vh : Nat) (s : State) : Host.Outcome State Fault Refusal :=
  if s.err = .none then .next (s.decodeBlock vw vh) else .next s

/-- The OutWrites that a command makes when it runs to completion (41_block_decode.md R110): only a DECODE_BLOCK that
is neither discarded nor out of bounds makes any. -/
def State.commandWrites (s : State) (i : Instr) : List (Nat × Word) :=
  match i with
  | .nop => []
  | .setFormat _ => []
  | .decodeBlock vw vh => if s.err = .none ∧ s.inBounds vw vh = true then s.texelWrites vw vh else []
  | .clearErr => []

/-- The OutWrites of the CMD write of w; an illegal word makes none (30_encoding.md R66). -/
def State.wordWrites (s : State) (w : Word) : List (Nat × Word) :=
  match decode w with
  | .ok i => s.commandWrites i
  | .error _ => []

/-- The OutWrites of the CMD write of w that have happened when something interrupts or observes it: a prefix in texel
order, its length a free count from none to all (70_reset_and_hazards.md R182; 20_memory.md R43, R53; logs 6, 9). -/
def State.partialWrites (s : State) (w : Word) : List (Nat × Word) :=
  (s.wordWrites w).take s.freeCount

end Sys2Proof.Machine
end

