-- ==== Sys2Proof/Machine/Control.lean ====
section
/-! DEFINITION. NOP and CLEAR_ERR (43_control.md R150, R151). -/

namespace Sys2Proof.Machine

/-- NOP: no state changes, also while an error is pending (43_control.md R150). -/
def execNop (s : State) : Host.Outcome State Fault Refusal := .next s

/-- CLEAR_ERR: ERR <- NONE (43_control.md R151). -/
def execClearErr (s : State) : Host.Outcome State Fault Refusal := .next s.clearError

end Sys2Proof.Machine
end

