-- ==== Sys2Proof/Machine/Format.lean ====
section
/-! DEFINITION. SET_FORMAT and the LUT rebuild (40_format_and_lut.md). -/

namespace Sys2Proof.Machine

/-- RebuildLUTs(): every entry of the four LUTs from the current shifts, then LUT_VALID <- 1
(40_format_and_lut.md R84). -/
def State.rebuildLuts (s : State) : State :=
  { s with
    alut := buildAlut s.shifts
    rlut := buildRlut s.params s.shifts
    glut := buildGlut s.params s.shifts
    blut := buildBlut s.params s.shifts
    lutValid := true }

/-- FORMAT <- fmt and the shifts <- Shifts(fmt) (40_format_and_lut.md R82). -/
def State.loadFormat (s : State) (fmt : PixelFormat) : State :=
  { s with format := fmt, shifts := fmt.shifts }

/-- The body of SET_FORMAT (40_format_and_lut.md R82). -/
def State.selectFormat (s : State) (fmt : PixelFormat) : State :=
  if s.lutValid = false ∨ fmt ≠ s.format then (s.loadFormat fmt).rebuildLuts else s

/-- SET_FORMAT (40_format_and_lut.md R82); discarded while an error is pending (60_exceptions.md R163; log 12). -/
def execSetFormat (fmtsel : BitVec 8) (s : State) : Host.Outcome State Fault Refusal :=
  if s.err = .none then .next (s.selectFormat (resolveFormat fmtsel)) else .next s

end Sys2Proof.Machine
end

