-- ==== Sys2Proof/Machine/Dispatch.lean ====
section
/-! DEFINITION. One arm per command: exec calls each command's meaning (30_encoding.md R67 "execute op"). -/

namespace Sys2Proof.Machine

def exec (i : Instr) (s : State) : Host.Outcome State Fault Refusal :=
  match i with
  | .nop => Sys2Proof.Machine.execNop s
  | .setFormat fmtsel => Sys2Proof.Machine.execSetFormat fmtsel s
  | .decodeBlock vw vh => Sys2Proof.Machine.execDecodeBlock vw vh s
  | .clearErr => Sys2Proof.Machine.execClearErr s

end Sys2Proof.Machine
end

