-- ==== Sys2Proof/Machine/Port.lean ====
section
/-! DEFINITION. What each host action does: register reads and writes, the CMD write, OUTMEM accesses and reset
(30_encoding.md R67; 43_control.md R152, R153; 20_memory.md R50 to R53; 70_reset_and_hazards.md R180 to R183). -/

namespace Sys2Proof.Machine

/-- A host write of w to CMD: an illegal word raises ILLEGAL_CMD whatever ERR holds, a command runs
(30_encoding.md R66, R67). -/
def writeCmd (w : Word) (s : State) : Host.Outcome State Fault Refusal :=
  match decode w with
  | .ok i => exec i s
  | .error _ => .next (s.raise .illegalCmd)

/-- RegWrite: BLK0..BLK3, DST and STRIDE take the value whatever ERR holds; STATUS, an unmapped offset and an access
that is not full raise BAD_ACCESS (43_control.md R153). -/
def writeReg (acc : Access) (v : Word) (s : State) : Host.Outcome State Fault Refusal :=
  match acc.reg? with
  | some .cmd => writeCmd v s
  | some .blk0 => .next { s with blk0 := v }
  | some .blk1 => .next { s with blk1 := v }
  | some .blk2 => .next { s with blk2 := v }
  | some .blk3 => .next { s with blk3 := v }
  | some .dst => .next { s with dst := v }
  | some .stride => .next { s with stride := v }
  | some .status => .next (s.raise .badAccess)
  | none => .next (s.raise .badAccess)

/-- The assertion of reset: every block register, LUT_VALID 0; OUTMEM is not touched (70_reset_and_hazards.md R180).
The LUT memories keep what they held until the reset build overwrites them (log 7). -/
def State.assertReset (s : State) : State :=
  { s with
    format := .bgra
    shifts := PixelFormat.bgra.shifts
    lutValid := false
    err := .none
    blk0 := 0, blk1 := 0, blk2 := 0, blk3 := 0, dst := 0, stride := 0 }

/-- A reset that abandons the command of the CMD write of w: OUTMEM keeps a prefix of its OutWrites, every other
effect is lost (70_reset_and_hazards.md R182). -/
def State.resetDuring (s : State) (w : Word) : State :=
  (s.outWrites (s.partialWrites w)).drawn.assertReset

/-- The host reads the OUTMEM word at a; there is none at or past OUT_WORDS (20_memory.md R47; log 16). -/
def readOut (a : Nat) (s : State) : Host.Outcome State Fault Refusal :=
  if s.hasOutWord a then .next (s.recordRead (Memory.readWord s.outmem a)) else .fault (.outsideOutmem a)

/-- The host writes the OUTMEM word at a (10_state.md R29; 20_memory.md R47; log 16). -/
def writeOut (a : Nat) (v : Word) (s : State) : Host.Outcome State Fault Refusal :=
  if s.hasOutWord a then .next (s.outWrites [(a, v)]) else .fault (.outsideOutmem a)

/-- The word at a after some of the OutWrites of the CMD write of w: what a racing read returns, "the old or the new
word, never a mix" (20_memory.md R43, R53; 93_implementation_defined.md S3; log 9). -/
def State.racingWord (s : State) (w : Word) (a : Nat) : Word :=
  Memory.readWord (s.outWrites (s.partialWrites w)).outmem a

/-- The CMD write of w with a racing OUTMEM read at a: the command has its whole effect, and the read returns the word
of some moment of it. -/
def readOutDuring (w : Word) (a : Nat) (s : State) : Host.Outcome State Fault Refusal :=
  if s.hasOutWord a then
    match writeCmd w s.drawn with
    | .next t => .next (t.recordRead (s.racingWord w a))
    | .fault r => .fault r
    | .refused r => .refused r
  else .fault (.outsideOutmem a)

/-- One host action (60_exceptions.md R173). -/
def perform (act : HostAction) (s : State) : Host.Outcome State Fault Refusal :=
  match act with
  | .read acc => .next (s.recordRead (s.readReg acc))
  | .write acc v => writeReg acc v s
  | .readOut a => readOut a s
  | .writeOut a v => writeOut a v s
  | .reset => .next s.assertReset
  | .resetDuring w => .next (s.resetDuring w)
  | .readOutDuring w a => readOutDuring w a s

/-- The host's next action is taken from its script: one at a time, in order (20_memory.md R49 to R51). With no action
left the host makes no access and the block does nothing (log 17). -/
def runScript (s : State) : Host.Outcome State Fault Refusal :=
  match s.script with
  | [] => .next s
  | act :: rest => perform act (s.withScript rest)

/-- One step outside a reset is the host's next action; between the assertion of reset and the end of the reset build
it is the build, and every host access is held (70_reset_and_hazards.md R181, R183). -/
def advance (s : State) : Host.Outcome State Fault Refusal :=
  match s.lutValid with
  | false => .next s.rebuildLuts
  | true => runScript s

/-- The reset build done, if one is pending (70_reset_and_hazards.md R181). -/
def State.ready (s : State) : State :=
  match s.lutValid with
  | false => s.rebuildLuts
  | true => s

/-- The host's next action put before the rest of its script. -/
def State.issue (s : State) (act : HostAction) : State := s.withScript (act :: s.script)

end Sys2Proof.Machine
end

