-- ==== Sys2Proof/Machine/Step.lean ====
section
/-! DEFINITION. One step of the machine, and how a command is placed to be the next one that runs (log 1). -/

namespace Sys2Proof.Machine

/-- One step (Machine/Port.lean: advance). -/
def step (s : State) : Host.Outcome State Fault Refusal := advance s

/-- s with the host about to write the command word w to CMD, so that the next step runs it: the block fetches
nothing, "the host issues each command by writing CMD" (10_state.md R23). A pending reset build, during which host
accesses are held (70_reset_and_hazards.md R183), is done first. A word that does not fit in the one command length
changes nothing. -/
def State.withFetchWord (s : State) (nbits w : Nat) : State :=
  match commandWord nbits w with
  | some v => s.ready.issue (.write Reg.cmd.access v)
  | none => s

end Sys2Proof.Machine
end

