-- ==== Sys2Proof/Machine/Script.lean ====
section
/-! DEFINITION. The host command scripts of 30_encoding.md R68 and R69 as abstract syntax, and their expansion into
host actions. -/

namespace Sys2Proof.Machine

/-- One line of a host command script (30_encoding.md R68, R69). -/
inductive ScriptLine where
  /-- `wr NAME, value` -/
  | wr (r : Reg) (v : Word)
  /-- `rd NAME` -/
  | rd (r : Reg)
  /-- `nop` -/
  | nop
  /-- `setfmt f`, f in 0..255 -/
  | setfmt (f : BitVec 8)
  /-- `decblk vw, vh`, vw and vh in 1..4; what a line with other numbers expands to is the model's choice (DESIGN CHOICE,
  log 23) -/
  | decblk (vw vh : Nat)
  /-- `decblk` without operands -/
  | decblkFull
  /-- `clrerr` -/
  | clrerr
  /-- `ldblk B0 B1 ... B15`; what a line with fewer or more than 16 bytes expands to is the model's choice (DESIGN
  CHOICE, log 21) -/
  | ldblk (b : List Byte)
  /-- `setdst d, s` -/
  | setdst (d s : Word)
deriving DecidableEq, Repr

/-- `wr NAME, value`: a host register write (43_control.md R153). -/
def wrAction (r : Reg) (v : Word) : HostAction := .write r.access v

/-- The names `setfmt` takes (30_encoding.md R68). -/
def PixelFormat.selector (f : PixelFormat) : BitVec 8 := f.code.setWidth 8

/-- The host actions of a line (30_encoding.md R68, R69). A `decblk` line with vw or vh outside 1..4, which R68 does not
allow, expands by the same formula on naturals: 0 gives the field of 1, and a number past 4 spills into the bits above its
field (DESIGN CHOICE, log 23). -/
def ScriptLine.expand : ScriptLine → List HostAction
  | .wr r v => [wrAction r v]
  | .rd r => [.read r.access]
  | .nop => [wrAction .cmd 0x00000000]
  | .setfmt f => [wrAction .cmd (0x00000001 ||| (f.setWidth 32 <<< 8))]
  | .decblk vw vh =>
    [wrAction .cmd (0x00000002 ||| (BitVec.ofNat 32 (vw - 1) <<< 8) ||| (BitVec.ofNat 32 (vh - 1) <<< 10))]
  | .decblkFull =>
    [wrAction .cmd (0x00000002 ||| (BitVec.ofNat 32 (4 - 1) <<< 8) ||| (BitVec.ofNat 32 (4 - 1) <<< 10))]
  | .clrerr => [wrAction .cmd 0x00000003]
  | .ldblk b => [wrAction .blk0 (le32 b 0), wrAction .blk1 (le32 b 4), wrAction .blk2 (le32 b 8),
      wrAction .blk3 (le32 b 12)]
  | .setdst d s => [wrAction .dst d, wrAction .stride s]

/-- The host actions of a script, in order. -/
def expandScript (ls : List ScriptLine) : List HostAction := ls.flatMap ScriptLine.expand

end Sys2Proof.Machine
end

