-- ==== Sys2Proof/Machine/Driver.lean ====
section
/-! DEFINITION. The host's image driver and the buffer-size helpers (42_host_driver.md R130 to R140): the host agent's
program, no hardware. -/

namespace Sys2Proof.Machine

/-- ceil(n / 4) = (n + 3) / 4 (42_host_driver.md R130). -/
def blocksAcross (n : Nat) : Nat := (n + 3) / 4

/-- InputBufferSize in bytes (42_host_driver.md R130). -/
def inputBufferSize (width height : Nat) : Nat := blocksAcross width * blocksAcross height * 16

/-- OutputBufferSize in bytes (42_host_driver.md R131). -/
def outputBufferSize (width height : Nat) : Nat := width * height * 4

/-- The arguments of Decode (42_host_driver.md R132). -/
structure Image where
  width : Nat
  height : Nat
  input : List Byte
  obase : Nat
deriving DecidableEq, Repr

/-- The checks (a) to (d), made once before any command (42_host_driver.md R133). -/
def Image.valid (img : Image) (outWords : Nat) : Bool :=
  decide (1 ≤ img.width) && decide (1 ≤ img.height) &&
    decide (inputBufferSize img.width img.height ≤ img.input.length) &&
    decide (img.obase + img.width * img.height ≤ outWords) &&
    decide (img.width < 2 ^ 32) && decide (img.obase < 2 ^ 32)

/-- The 16 bytes of block k of the input buffer (42_host_driver.md R134). -/
def Image.blockBytes (img : Image) (k : Nat) : List Byte := (img.input.drop (16 * k)).take 16

/-- The number of a block, left to right and top to bottom (42_host_driver.md R134). -/
def Image.blockNumber (img : Image) (bCol bRow : Nat) : Nat := bRow * blocksAcross img.width + bCol

/-- The pixel address of texel 0 of block (bx, by) = (bCol, bRow) (42_host_driver.md R134; 90_conflicts.md C3). -/
def Image.blockDst (img : Image) (bCol bRow : Nat) : Nat := img.obase + 4 * bRow * img.width + 4 * bCol

/-- What the host does for block (bx, by) = (bCol, bRow): ldblk, setdst, decblk (42_host_driver.md R134). -/
def Image.blockLines (img : Image) (bCol bRow : Nat) : List ScriptLine :=
  [ .ldblk (img.blockBytes (img.blockNumber bCol bRow)),
    .setdst (BitVec.ofNat 32 (img.blockDst bCol bRow)) (BitVec.ofNat 32 img.width),
    .decblk (min 4 (img.width - 4 * bCol)) (min 4 (img.height - 4 * bRow)) ]

/-- The lines of one row of blocks. -/
def Image.rowLines (img : Image) (bRow : Nat) : List ScriptLine :=
  (List.range (blocksAcross img.width)).flatMap fun bCol => img.blockLines bCol bRow

/-- The lines of all the blocks. -/
def Image.allLines (img : Image) : List ScriptLine :=
  (List.range (blocksAcross img.height)).flatMap fun bRow => img.rowLines bRow

/-- The host's program for the image: the blocks, then rd STATUS (42_host_driver.md R134). -/
def Image.script (img : Image) : List HostAction := expandScript (img.allLines ++ [.rd .status])

/-- What Decode returns (42_host_driver.md R133, R135). -/
inductive DriverResult where
  | success
  | invalidArgument
deriving DecidableEq, Repr

/-- Success when the last read, of STATUS, shows ERR = 0 (42_host_driver.md R135). -/
def driverResult (t : State) : DriverResult :=
  match t.reads with
  | [] => .invalidArgument
  | v :: _ => if statusErrField v = 0 then .success else .invalidArgument

/-- Decode: the checks, then the program, one step an action, before whatever else the host has to do; accesses held
by a pending reset build wait for it (42_host_driver.md R132 to R135; 70_reset_and_hazards.md R183). -/
def driverDecode (img : Image) (s : State) : Host.Outcome (DriverResult × State) Fault Refusal :=
  if img.valid s.params.outWords then
    match Host.Core.run Sys2Proof.core img.script.length (s.ready.withScript (img.script ++ s.script)) with
    | .next t => .next (driverResult t, t)
    | .fault r => .fault r
    | .refused r => .refused r
  else .next (.invalidArgument, s)

end Sys2Proof.Machine
end

