-- ==== Sys2Proof/Safety.lean ====
section
/-! DEFINITION. What a legal state of the block is at a step boundary, and what a safe step is. -/

namespace Sys2Proof

open Sys2Proof.Machine

/-- The LUTs hold the tables built for the current shifts (10_state.md R26, R27). -/
def Machine.State.lutsBuilt (s : State) : Prop :=
  s.alut = buildAlut s.shifts ∧ s.rlut = buildRlut s.params s.shifts ∧
    s.glut = buildGlut s.params s.shifts ∧ s.blut = buildBlut s.params s.shifts

/-- Every byte the output memory lists belongs to a word of OUTMEM (10_state.md R29). -/
def Machine.State.outmemInside (s : State) : Prop := ∀ c ∈ s.outmem, c.1 < 4 * s.params.outWords

/-- The legal states: the parameters are legal (00_scope.md R6, R7), the shifts hold the row FORMAT selects
(10_state.md R25), LUT_VALID = 1 only over LUTs built for them (R26, R27), and the output memory is in canonical form
and inside OUTMEM (R29). -/
structure Machine.State.Inv (s : State) : Prop where
  params : s.params.wf
  shifts : s.shifts = s.format.shifts
  luts : s.lutValid = true → s.lutsBuilt
  canonical : Memory.wf s.outmem
  inside : s.outmemInside

/-- A safe step: it does not fault and does not refuse. -/
def SafeStep (s : State) : Prop := ∃ t, step s = .next t

end Sys2Proof
end

