-- ==== Sys2Proof/Certificates/Slice0/Obligations.lean ====
section
/-! DEFINITION. The statements for the provers. Each docstring names the rules of spec/ it formalises. The helper
definitions (namespace Claims) restate the spec's formulas on numbers and bytes, apart from the model's own
functions. -/

open Sys2Proof Sys2Proof.Machine

namespace Sys2Proof.Claims

/-- No reset build is pending, and act is what the host does next. -/
def About (s : State) (act : HostAction) (rest : List HostAction) : Prop :=
  s.lutValid = true ∧ s.script = act :: rest

/-- The action issues the command i: a CMD write of a word that decodes to it. -/
def Issues (act : HostAction) (i : Instr) : Prop :=
  ∃ w, decode w = .ok i ∧ (act = .write Reg.cmd.access w ∨ ∃ a, act = .readOutDuring w a)

/-- The action asserts reset. -/
def IsReset (act : HostAction) : Prop := act = .reset ∨ ∃ w, act = .resetDuring w

/-- The action is a CMD write of w, with or without a racing read. -/
def WritesCmd (act : HostAction) (w : Word) : Prop :=
  act = .write Reg.cmd.access w ∨ ∃ a, act = .readOutDuring w a

/-- The resolved format of 30_encoding.md R62. -/
def formatOf (fmtsel : BitVec 8) : PixelFormat :=
  match fmtsel.toNat with
  | 1 => .rgba
  | 2 => .argb
  | 3 => .abgr
  | _ => .bgra

/-- Texel i is inside the clip (41_block_decode.md R107). -/
def Clipped (vw vh i : Nat) : Prop := i < 16 ∧ i / 4 < vh ∧ i % 4 < vw

/-- The destination pixel address of texel i (41_block_decode.md R107). -/
def address (s : State) (i : Nat) : Nat := s.dst.toNat + i / 4 * s.stride.toNat + i % 4

/-- The largest address inside the clip (41_block_decode.md R108). -/
def last (s : State) (vw vh : Nat) : Nat := s.dst.toNat + (vh - 1) * s.stride.toNat + (vw - 1)

/-- The word w is a DECODE_BLOCK that s neither discards nor finds out of bounds, and its texel i is written to the
pixel address a (41_block_decode.md R107, R108; 60_exceptions.md R163). -/
def WritesTexel (s : State) (w : Word) (i a : Nat) : Prop :=
  ∃ vw vh, decode w = .ok (.decodeBlock vw vh) ∧ s.err = .none ∧ last s vw vh < s.params.outWords ∧
    Clipped vw vh i ∧ address s i = a

/-- The OutWrites of a clip, (pixel address, pixel), in ascending texel order (20_memory.md R52; 41_block_decode.md
R107). -/
def clipWrites (s : State) (vw vh : Nat) : List (Nat × Word) :=
  ((List.range 16).filter fun i => decide (i / 4 < vh) && decide (i % 4 < vw)).map fun i => (address s i, s.pixel i)

/-- The cause of each error code (60_exceptions.md R160): an illegal CMD word, a DECODE_BLOCK out of bounds, a host
write to no register that takes one by a full access. -/
def Causes (s : State) (act : HostAction) : ErrCode → Prop
  | .none => False
  | .illegalCmd => ∃ w, (∀ r ∈ opcodeTable, w &&& r.mask ≠ r.pattern) ∧ WritesCmd act w
  | .bounds => ∃ vw vh, Issues act (.decodeBlock vw vh) ∧ s.params.outWords ≤ last s vw vh
  | .badAccess => ∃ acc v, act = .write acc v ∧
      ¬ (acc.size = 4 ∧ acc.offset ∈ [0x00, 0x08, 0x0C, 0x10, 0x14, 0x18, 0x1C])

/-- Byte o of a block or buffer, as a number. -/
def byteAt (b : List Byte) (o : Nat) : Nat := (b[o]?.getD 0).toNat

/-- color0 of a block, bytes 8 and 9, little-endian (41_block_decode.md R101). -/
def blockColor0 (b : List Byte) : Nat := byteAt b 8 + 256 * byteAt b 9

/-- color1 of a block, bytes 10 and 11. -/
def blockColor1 (b : List Byte) : Nat := byteAt b 10 + 256 * byteAt b 11

/-- The alpha code of texel i: the low nibble of byte i/2 for an even texel, the high nibble for an odd one
(41_block_decode.md R104). -/
def blockAlpha (b : List Byte) (i : Nat) : Nat := byteAt b (i / 2) / 16 ^ (i % 2) % 16

/-- The colour index of texel i: two bits of byte 12 + i/4 (41_block_decode.md R104). -/
def blockIndex (b : List Byte) (i : Nat) : Nat := byteAt b (12 + i / 4) / 4 ^ (i % 4) % 4

/-- The red value of texel i of a block: Pal(5, r0, r1, ix) (41_block_decode.md R102, R106). -/
def blockRed (p : Params) (b : List Byte) (i : Nat) : Nat :=
  (palette5 p (BitVec.ofNat 5 (blockColor0 b / 2048)) (BitVec.ofNat 5 (blockColor1 b / 2048))
    (BitVec.ofNat 2 (blockIndex b i))).toNat

/-- The green value of texel i of a block: Pal(6, g0, g1, ix). -/
def blockGreen (p : Params) (b : List Byte) (i : Nat) : Nat :=
  (palette6 p (BitVec.ofNat 6 (blockColor0 b / 32)) (BitVec.ofNat 6 (blockColor1 b / 32))
    (BitVec.ofNat 2 (blockIndex b i))).toNat

/-- The blue value of texel i of a block: Pal(5, b0, b1, ix). -/
def blockBlue (p : Params) (b : List Byte) (i : Nat) : Nat :=
  (palette5 p (BitVec.ofNat 5 (blockColor0 b)) (BitVec.ofNat 5 (blockColor1 b))
    (BitVec.ofNat 2 (blockIndex b i))).toNat

/-- The pixel of texel i of a block in a format, with no LUT: four channels in four lanes (41_block_decode.md
R106). -/
def blockPixel (p : Params) (f : PixelFormat) (b : List Byte) (i : Nat) : Word :=
  BitVec.ofNat 32 (17 * blockAlpha b i) <<< f.shifts.a.bits ||| BitVec.ofNat 32 (blockRed p b i) <<< f.shifts.r.bits |||
    BitVec.ofNat 32 (blockGreen p b i) <<< f.shifts.g.bits ||| BitVec.ofNat 32 (blockBlue p b i) <<< f.shifts.b.bits

/-- The 16 block bytes the registers BLK0..BLK3 hold (10_state.md R21). -/
def heldBlock (s : State) : List Byte :=
  [byteOf s.blk0 0, byteOf s.blk0 1, byteOf s.blk0 2, byteOf s.blk0 3,
   byteOf s.blk1 0, byteOf s.blk1 1, byteOf s.blk1 2, byteOf s.blk1 3,
   byteOf s.blk2 0, byteOf s.blk2 1, byteOf s.blk2 2, byteOf s.blk2 3,
   byteOf s.blk3 0, byteOf s.blk3 1, byteOf s.blk3 2, byteOf s.blk3 3]

/-- The state that the assertion of reset leaves, with the output memory m and the draw counter d
(70_reset_and_hazards.md R180). -/
def afterAssertion (s : State) (m : Memory) (d : Nat) (rest : List HostAction) : State :=
  { s with
    format := .bgra
    shifts := { b := .s0, g := .s8, r := .s16, a := .s24 }
    lutValid := false
    err := .none
    blk0 := 0, blk1 := 0, blk2 := 0, blk3 := 0, dst := 0, stride := 0
    outmem := m
    script := rest
    draws := d }

/-- The script entry is a CMD write of a DECODE_BLOCK. -/
def isDecodeWrite : HostAction → Bool
  | .write acc w =>
    decide (acc = Reg.cmd.access) &&
      (match decode w with
       | .ok (.decodeBlock _ _) => true
       | _ => false)
  | _ => false

/-- The script entry is a write of BLK0, BLK1, BLK2 or BLK3. -/
def isBlkWrite : HostAction → Bool
  | .write acc _ =>
    decide (acc = Reg.blk0.access) || decide (acc = Reg.blk1.access) || decide (acc = Reg.blk2.access) ||
      decide (acc = Reg.blk3.access)
  | _ => false

end Sys2Proof.Claims

open Sys2Proof.Claims

/-! ## Encoding -/

/-- Words of 95_test_vectors.md L2-1, one or more per command, and illegal ones. -/
def Obligations.SampleWordsDecode : Prop :=
  decode 0x00000000 = .ok .nop ∧ decode 0x0000FF01 = .ok (.setFormat 255) ∧
    decode 0x00000102 = .ok (.decodeBlock 2 1) ∧ decode 0x00000F02 = .ok (.decodeBlock 4 4) ∧
    decode 0x00000C02 = .ok (.decodeBlock 1 4) ∧ decode 0x00000003 = .ok .clearErr ∧
    decode 0x00001002 = .error (.reservedBits 2) ∧ decode 0x0000000F = .error (.reservedOpcode 15)

/-- Decoding the encoding of a well-formed command gives it back (30_encoding.md R61, R65). -/
def Obligations.DecodeOfEncodeIsIdentity : Prop :=
  ∀ i : Instr, i.wf = true → decode (encode i) = .ok i

/-- 30_encoding.md R65: a word is the command of a row exactly when (w & mask) == match. -/
def Obligations.WordIsCommandOfItsRow : Prop :=
  ∀ w : Word,
    (decode w = .ok .nop ↔ w &&& 0xFFFFFFFF = 0x00000000) ∧
    ((∃ f, decode w = .ok (.setFormat f)) ↔ w &&& 0xFFFF00FF = 0x00000001) ∧
    ((∃ vw vh, decode w = .ok (.decodeBlock vw vh)) ↔ w &&& 0xFFFFF0FF = 0x00000002) ∧
    (decode w = .ok .clearErr ↔ w &&& 0xFFFFFFFF = 0x00000003)

/-- The operands are the fields of 30_encoding.md R61 to R63: FMTSEL at [15:8], VW1 at [9:8], VH1 at [11:10]. -/
def Obligations.DecodedOperandsAreTheFields : Prop :=
  ∀ w : Word,
    (∀ f, decode w = .ok (.setFormat f) → f.toNat = w.toNat / 2 ^ 8 % 2 ^ 8) ∧
    (∀ vw vh, decode w = .ok (.decodeBlock vw vh) →
      vw = w.toNat / 2 ^ 8 % 4 + 1 ∧ vh = w.toNat / 2 ^ 10 % 4 + 1)

/-- Each word has one meaning: a word that decodes is the encoding of a well-formed command (30_encoding.md R65,
R66). -/
def Obligations.EncodeOfDecodeIsIdentity : Prop :=
  ∀ (w : Word) (i : Instr), decode w = .ok i → i.wf = true ∧ encode i = w

/-! ## Issuing a command -/

/-- A step at which the host is about to write to CMD a word that decodes to i is exec of i, with that write taken from
the script: the model's form of 30_encoding.md R67. That the write is the head of script and is taken from it is log 1
(DESIGN CHOICE); that it holds while an error is pending too, where R67 returns before "execute op", is log 12 (DEDUCED):
exec itself holds the discard. -/
def Obligations.StepRunsDecodedCommand : Prop :=
  ∀ (s : State) (w : Word) (rest : List HostAction) (i : Instr),
    About s (.write Reg.cmd.access w) rest → decode w = .ok i → step s = exec i { s with script := rest }

/-- A word placed by withFetchWord is the command the very next step runs, a pending reset build done first (the
model's convention, log 1). -/
def Obligations.FetchedWordRunsNext : Prop :=
  ∀ (s : State) (nbits w : Nat) (i : Instr), decodeTableWord nbits w = some i →
    (s.lutValid = true → step (s.withFetchWord nbits w) = exec i s) ∧
    (s.lutValid = false → step (s.withFetchWord nbits w) = exec i s.rebuildLuts)

/-- 30_encoding.md R66: OPC 0x4 to 0xF, or a legal OPC with any reserved bit set, raises ILLEGAL_CMD and has no other
effect; every other word is a command. -/
def Obligations.IllegalWordRaisesIllegalCmd : Prop :=
  ∀ (s : State) (w : Word) (rest : List HostAction), About s (.write Reg.cmd.access w) rest →
    (4 ≤ w.toNat % 16 ∨
      ((w.toNat % 16 = 0 ∨ w.toNat % 16 = 3) ∧ w.toNat / 16 ≠ 0) ∨
      (w.toNat % 16 = 1 ∧ (w.toNat / 2 ^ 4 % 16 ≠ 0 ∨ w.toNat / 2 ^ 16 ≠ 0)) ∨
      (w.toNat % 16 = 2 ∧ (w.toNat / 2 ^ 4 % 16 ≠ 0 ∨ w.toNat / 2 ^ 12 ≠ 0)) →
      step s = .next { s with script := rest, err := if s.err = .none then .illegalCmd else s.err }) ∧
    (¬ (4 ≤ w.toNat % 16 ∨
      ((w.toNat % 16 = 0 ∨ w.toNat % 16 = 3) ∧ w.toNat / 16 ≠ 0) ∨
      (w.toNat % 16 = 1 ∧ (w.toNat / 2 ^ 4 % 16 ≠ 0 ∨ w.toNat / 2 ^ 16 ≠ 0)) ∨
      (w.toNat % 16 = 2 ∧ (w.toNat / 2 ^ 4 % 16 ≠ 0 ∨ w.toNat / 2 ^ 12 ≠ 0))) →
      ∃ i, decode w = .ok i)

/-- 30_encoding.md R67: legality first, then the discard while an error is pending, then the command. -/
def Obligations.CmdWriteDecodeOrder : Prop :=
  ∀ (s : State) (w : Word) (rest : List HostAction), About s (.write Reg.cmd.access w) rest →
    ((∀ r ∈ opcodeTable, w &&& r.mask ≠ r.pattern) →
      step s = .next { s with script := rest, err := if s.err = .none then .illegalCmd else s.err }) ∧
    (∀ i, decode w = .ok i → s.err ≠ .none → i ≠ .nop → i ≠ .clearErr → step s = .next { s with script := rest }) ∧
    (∀ i, decode w = .ok i → s.err = .none ∨ i = .nop ∨ i = .clearErr → step s = exec i { s with script := rest })

/-! ## The commands -/

/-- 43_control.md R150: NOP changes no state, also while an error is pending. -/
def Obligations.NopChangesNothing : Prop := ∀ s : State, exec .nop s = .next s

/-- 43_control.md R151: CLEAR_ERR sets ERR to NONE and changes nothing else. -/
def Obligations.ClearErrClearsOnlyErr : Prop := ∀ s : State, exec .clearErr s = .next { s with err := .none }

/-- 60_exceptions.md R163: while an error is pending SET_FORMAT and DECODE_BLOCK are discarded, NOP and CLEAR_ERR
run, and register writes and reads are not discarded. -/
def Obligations.PendingErrorDiscardsFormatAndDecode : Prop :=
  ∀ s : State, s.err ≠ .none →
    (∀ f, exec (.setFormat f) s = .next s) ∧ (∀ vw vh, exec (.decodeBlock vw vh) s = .next s) ∧
    exec .nop s = .next s ∧ exec .clearErr s = .next { s with err := .none } ∧
    (∀ v, perform (.write Reg.blk0.access v) s = .next { s with blk0 := v }) ∧
    (∀ v, perform (.write Reg.blk1.access v) s = .next { s with blk1 := v }) ∧
    (∀ v, perform (.write Reg.blk2.access v) s = .next { s with blk2 := v }) ∧
    (∀ v, perform (.write Reg.blk3.access v) s = .next { s with blk3 := v }) ∧
    (∀ v, perform (.write Reg.dst.access v) s = .next { s with dst := v }) ∧
    (∀ v, perform (.write Reg.stride.access v) s = .next { s with stride := v }) ∧
    (∀ acc, perform (.read acc) s = .next { s with reads := s.readReg acc :: s.reads })

/-- 40_format_and_lut.md R82: SET_FORMAT runs whenever no error is pending; it loads FORMAT and the shifts and
rebuilds the four LUTs when the format differs or no LUT exists, else it changes nothing; every other field is
unchanged; STATUS.FMT reads the format afterwards. -/
def Obligations.SetFormatSelectsAndRebuilds : Prop :=
  ∀ (s : State) (f : BitVec 8), s.err = .none →
    ∃ t, exec (.setFormat f) s = .next t ∧
      (s.lutValid = false ∨ formatOf f ≠ s.format →
        t = { s with
              format := formatOf f
              shifts := (formatOf f).shifts
              alut := buildAlut (formatOf f).shifts
              rlut := buildRlut s.params (formatOf f).shifts
              glut := buildGlut s.params (formatOf f).shifts
              blut := buildBlut s.params (formatOf f).shifts
              lutValid := true }) ∧
      (s.lutValid = true ∧ formatOf f = s.format → t = s) ∧
      statusFmtField t.statusWord = (formatOf f).code

/-- 30_encoding.md R62: a FMTSEL of 0..3 selects the format of that code, 4..255 selects BGRA, and none raises an
error. -/
def Obligations.FmtselResolves : Prop :=
  ∀ (s : State) (f : BitVec 8), s.err = .none →
    ∃ t, exec (.setFormat f) s = .next t ∧ t.err = .none ∧
      (f.toNat ≤ 3 → t.format.code.toNat = f.toNat) ∧ (4 ≤ f.toNat → t.format = .bgra)

/-- 40_format_and_lut.md R81, 10_state.md R24, R25: the shift table, and every row is a permutation of 0, 8, 16,
24. -/
def Obligations.ShiftTableRows : Prop :=
  (PixelFormat.bgra.code = 0 ∧ PixelFormat.rgba.code = 1 ∧ PixelFormat.argb.code = 2 ∧ PixelFormat.abgr.code = 3) ∧
  (∀ f : PixelFormat, ((f.shifts.b.bits, f.shifts.g.bits, f.shifts.r.bits, f.shifts.a.bits) : Nat × Nat × Nat × Nat) =
    match f with
    | .bgra => (0, 8, 16, 24)
    | .rgba => (16, 8, 0, 24)
    | .argb => (24, 16, 8, 0)
    | .abgr => (8, 16, 24, 0)) ∧
  (∀ f : PixelFormat, [f.shifts.b.bits, f.shifts.g.bits, f.shifts.r.bits, f.shifts.a.bits].Perm [0, 8, 16, 24])

/-- SET_FORMAT naming the active format changes nothing, and a rebuild would write the same values: the spec's own
inference, "[derived: from rule R82 and rule R86]" (40_format_and_lut.md R83). -/
def Obligations.SameFormatRebuildUnobservable : Prop :=
  ∀ (s : State) (f : BitVec 8), s.Inv → s.lutValid = true → s.err = .none → formatOf f = s.format →
    exec (.setFormat f) s = .next s ∧ s.rebuildLuts = s

/-- 40_format_and_lut.md R86: the build is a function of the shifts and the parameters and is idempotent; its last
clause is the spec's own inference, "[derived: from this rule and rule R82]": going from format X to Y and back to X
restores every LUT entry (and the whole state). -/
def Obligations.FormatRoundTripRestores : Prop :=
  (∀ s s' : State, s.shifts = s'.shifts → s.params = s'.params →
    s.rebuildLuts.alut = s'.rebuildLuts.alut ∧ s.rebuildLuts.rlut = s'.rebuildLuts.rlut ∧
      s.rebuildLuts.glut = s'.rebuildLuts.glut ∧ s.rebuildLuts.blut = s'.rebuildLuts.blut) ∧
  (∀ s : State, s.rebuildLuts.rebuildLuts = s.rebuildLuts) ∧
  (∀ (s : State) (y x : BitVec 8), s.Inv → s.lutValid = true → s.err = .none → formatOf x = s.format →
    ∃ t, exec (.setFormat y) s = .next t ∧ t.format = formatOf y ∧ exec (.setFormat x) t = .next s)

/-! ## The LUTs -/

/-- 40_format_and_lut.md R88: ALUT[a] = (17 * a) << SHIFT_A for every alpha code. -/
def Obligations.AlphaLutHoldsRamp : Prop :=
  ∀ (sh : Shifts) (a : Nat), a < 16 → (buildAlut sh).read a = BitVec.ofNat 32 (17 * a) <<< sh.a.bits

/-- 40_format_and_lut.md R90: the entries of RLUT, BLUT and GLUT, and every index of each names exactly one pair of
codes and slot. -/
def Obligations.ColorLutsHoldPalette : Prop :=
  (∀ (p : Params) (sh : Shifts) (c0 c1 : BitVec 5) (slot : BitVec 2),
    (buildRlut p sh).read ((((c0.toNat <<< 5) ||| c1.toNat) <<< 2) ||| slot.toNat) =
      BitVec.ofNat 32 (palette5 p c0 c1 slot).toNat <<< sh.r.bits ∧
    (buildBlut p sh).read ((((c0.toNat <<< 5) ||| c1.toNat) <<< 2) ||| slot.toNat) =
      BitVec.ofNat 32 (palette5 p c0 c1 slot).toNat <<< sh.b.bits) ∧
  (∀ (p : Params) (sh : Shifts) (c0 c1 : BitVec 6) (slot : BitVec 2),
    (buildGlut p sh).read ((((c0.toNat <<< 6) ||| c1.toNat) <<< 2) ||| slot.toNat) =
      BitVec.ofNat 32 (palette6 p c0 c1 slot).toNat <<< sh.g.bits) ∧
  (∀ i : Nat, i < 4096 → ∃! q : BitVec 5 × BitVec 5 × BitVec 2,
    (((q.1.toNat <<< 5) ||| q.2.1.toNat) <<< 2) ||| q.2.2.toNat = i) ∧
  (∀ i : Nat, i < 16384 → ∃! q : BitVec 6 × BitVec 6 × BitVec 2,
    (((q.1.toNat <<< 6) ||| q.2.1.toNat) <<< 2) ||| q.2.2.toNat = i)

/-- 40_format_and_lut.md R91: the four slots of Pal in either BLEND_ORDER, exact and with no truncation, for the
5-bit and the 6-bit components. -/
def Obligations.PaletteSlotFormulas : Prop :=
  ∀ p : Params,
    (∀ c0 c1 : BitVec 5, palette5 p c0 c1 0 = p.colorExpand5 c0 ∧ palette5 p c0 c1 1 = p.colorExpand5 c1 ∧
      (p.blendOrder = .expandThenBlend →
        (palette5 p c0 c1 2).toNat = (2 * (p.colorExpand5 c0).toNat + (p.colorExpand5 c1).toNat) / 3 ∧
        (palette5 p c0 c1 3).toNat = ((p.colorExpand5 c0).toNat + 2 * (p.colorExpand5 c1).toNat) / 3) ∧
      (p.blendOrder = .blendThenExpand →
        (∃ c : BitVec 5, c.toNat = (2 * c0.toNat + c1.toNat) / 3 ∧ palette5 p c0 c1 2 = p.colorExpand5 c) ∧
        (∃ c : BitVec 5, c.toNat = (c0.toNat + 2 * c1.toNat) / 3 ∧ palette5 p c0 c1 3 = p.colorExpand5 c))) ∧
    (∀ c0 c1 : BitVec 6, palette6 p c0 c1 0 = p.colorExpand6 c0 ∧ palette6 p c0 c1 1 = p.colorExpand6 c1 ∧
      (p.blendOrder = .expandThenBlend →
        (palette6 p c0 c1 2).toNat = (2 * (p.colorExpand6 c0).toNat + (p.colorExpand6 c1).toNat) / 3 ∧
        (palette6 p c0 c1 3).toNat = ((p.colorExpand6 c0).toNat + 2 * (p.colorExpand6 c1).toNat) / 3) ∧
      (p.blendOrder = .blendThenExpand →
        (∃ c : BitVec 6, c.toNat = (2 * c0.toNat + c1.toNat) / 3 ∧ palette6 p c0 c1 2 = p.colorExpand6 c) ∧
        (∃ c : BitVec 6, c.toNat = (c0.toNat + 2 * c1.toNat) / 3 ∧ palette6 p c0 c1 3 = p.colorExpand6 c)))

/-- With c0 = c1 the four slots are equal under either BLEND_ORDER: the spec's own inference, "[derived: from rule
R91]" (40_format_and_lut.md R94). -/
def Obligations.EqualColorsGiveEqualSlots : Prop :=
  ∀ p : Params,
    (∀ (c : BitVec 5) (slot : BitVec 2), palette5 p c c slot = p.colorExpand5 c) ∧
    (∀ (c : BitVec 6) (slot : BitVec 2), palette6 p c c slot = p.colorExpand6 c)

/-- Every LUT entry is zero outside the byte lane of its channel; the four lanes are disjoint and together cover the
word: the spec's own inference, "[derived: from rules R88 and R90 and from 10_state.md rule R25]" (40_format_and_lut.md
R95). -/
def Obligations.LutEntriesStayInTheirLanes : Prop :=
  (∀ (p : Params) (sh : Shifts) (i : Nat),
    (buildAlut sh).read i &&& ~~~((0xFF : Word) <<< sh.a.bits) = 0 ∧
    (buildRlut p sh).read i &&& ~~~((0xFF : Word) <<< sh.r.bits) = 0 ∧
    (buildGlut p sh).read i &&& ~~~((0xFF : Word) <<< sh.g.bits) = 0 ∧
    (buildBlut p sh).read i &&& ~~~((0xFF : Word) <<< sh.b.bits) = 0) ∧
  (∀ f : PixelFormat,
    [f.shifts.a, f.shifts.r, f.shifts.g, f.shifts.b].Pairwise
      (fun x y => ((0xFF : Word) <<< x.bits) &&& ((0xFF : Word) <<< y.bits) = 0) ∧
    ((0xFF : Word) <<< f.shifts.a.bits ||| (0xFF : Word) <<< f.shifts.r.bits ||| (0xFF : Word) <<< f.shifts.g.bits |||
      (0xFF : Word) <<< f.shifts.b.bits) = 0xFFFFFFFF)

/-- 40_format_and_lut.md R96: the default expansions are bit replication, with the values the rule lists, and satisfy
00_scope.md R7. -/
def Obligations.DefaultExpansionTables : Prop :=
  ∀ n : Nat,
    (∀ c : BitVec 5, ((Params.withOutWords n).colorExpand5 c).toNat = (c.toNat <<< 3) ||| (c.toNat >>> 2)) ∧
    (∀ c : BitVec 6, ((Params.withOutWords n).colorExpand6 c).toNat = (c.toNat <<< 2) ||| (c.toNat >>> 4)) ∧
    ((Params.withOutWords n).expand5.toList.map BitVec.toNat =
      [0, 8, 16, 24, 33, 41, 49, 57, 66, 74, 82, 90, 99, 107, 115, 123, 132, 140, 148, 156, 165, 173, 181, 189, 198,
       206, 214, 222, 231, 239, 247, 255]) ∧
    ((Params.withOutWords n).expand6.toList.map BitVec.toNat =
      [0, 4, 8, 12, 16, 20, 24, 28, 32, 36, 40, 44, 48, 52, 56, 60, 65, 69, 73, 77, 81, 85, 89, 93, 97, 101, 105, 109,
       113, 117, 121, 125, 130, 134, 138, 142, 146, 150, 154, 158, 162, 166, 170, 174, 178, 182, 186, 190, 195, 199,
       203, 207, 211, 215, 219, 223, 227, 231, 235, 239, 243, 247, 251, 255]) ∧
    (1 ≤ n → n ≤ 2 ^ 32 → (Params.withOutWords n).wf)

/-! ## Pixels -/

/-- 41_block_decode.md R101 to R105 and 40_format_and_lut.md R88, R90: the pixel a decode reads from the LUTs is the
four-channel formula over the 16 block bytes the registers hold, and the OR equals the sum of its four terms: the spec's
own inference, "[derived: from rule R105 and 10_state.md rule R27]" (41_block_decode.md R106). -/
def Obligations.PixelIsFourDisjointChannels : Prop :=
  ∀ (s : State) (i : Nat), s.Inv → s.lutValid = true → i < 16 →
    s.pixel i = blockPixel s.params s.format (heldBlock s) i ∧
    (s.pixel i).toNat =
      17 * blockAlpha (heldBlock s) i * 2 ^ s.shifts.a.bits + blockRed s.params (heldBlock s) i * 2 ^ s.shifts.r.bits +
        blockGreen s.params (heldBlock s) i * 2 ^ s.shifts.g.bits +
        blockBlue s.params (heldBlock s) i * 2 ^ s.shifts.b.bits

/-- Byte 4a+k of the output holds bits [8k+7:8k] of the word written at a (20_memory.md R42, in the byte view of log 5,
DEDUCED); and the bytes of a pixel in ascending order are the channels the format's name spells: the spec's own
inference, "[derived: from 10_state.md rule R25 and §6]" (the table of R42), over R88, R90 and R105. -/
def Obligations.PixelBytesSpellTheFormat : Prop :=
  (∀ (m : Memory) (a k : Nat) (v : Word), k < 4 →
    ∃ b : Byte, Memory.byte? (Memory.writeWord m a v) (4 * a + k) = some b ∧ b.toNat = v.toNat / 2 ^ (8 * k) % 256) ∧
  (∀ (s : State) (i : Nat), s.Inv → s.lutValid = true → i < 16 →
    [(byteOf (s.pixel i) 0).toNat, (byteOf (s.pixel i) 1).toNat, (byteOf (s.pixel i) 2).toNat,
      (byteOf (s.pixel i) 3).toNat] =
      match s.format with
      | .bgra => [blockBlue s.params (heldBlock s) i, blockGreen s.params (heldBlock s) i,
          blockRed s.params (heldBlock s) i, 17 * blockAlpha (heldBlock s) i]
      | .rgba => [blockRed s.params (heldBlock s) i, blockGreen s.params (heldBlock s) i,
          blockBlue s.params (heldBlock s) i, 17 * blockAlpha (heldBlock s) i]
      | .argb => [17 * blockAlpha (heldBlock s) i, blockRed s.params (heldBlock s) i,
          blockGreen s.params (heldBlock s) i, blockBlue s.params (heldBlock s) i]
      | .abgr => [17 * blockAlpha (heldBlock s) i, blockBlue s.params (heldBlock s) i,
          blockGreen s.params (heldBlock s) i, blockRed s.params (heldBlock s) i])

/-! ## DECODE_BLOCK -/

/-- 41_block_decode.md R107, R110: a DECODE_BLOCK in range completes; it changes OUTMEM only, and there only bytes of
the words inside the clip; issued again it changes no byte. -/
def Obligations.DecodeBlockCompletesWithFrame : Prop :=
  ∀ (s : State) (vw vh : Nat), (Instr.decodeBlock vw vh).wf = true → s.err = .none →
    last s vw vh < s.params.outWords →
    ∃ m, exec (.decodeBlock vw vh) s = .next { s with outmem := m } ∧
      (∀ a, (∀ i, Clipped vw vh i → a / 4 ≠ address s i) → Memory.byte? m a = Memory.byte? s.outmem a) ∧
      (∃ m', exec (.decodeBlock vw vh) { s with outmem := m } = .next { s with outmem := m' } ∧
        ∀ a, Memory.byte? m' a = Memory.byte? m a)

/-- 20_memory.md R52: the OutWrites are those of the texels inside the clip in ascending order, so the word left at an
address is that of the highest texel inside the clip with that address; two texels inside the clip share an address only
when STRIDE < VW. The clause on STRIDE = 0 (the last row inside the clip wins) is the spec's own inference, "[derived:
from rule R107 and 20_memory.md rule R52]" (41_block_decode.md R111). -/
def Obligations.HighestTexelWins : Prop :=
  ∀ (s : State) (vw vh : Nat), (Instr.decodeBlock vw vh).wf = true → s.err = .none →
    last s vw vh < s.params.outWords →
    ∃ t, exec (.decodeBlock vw vh) s = .next t ∧
      t.outmem = Memory.writeWords s.outmem (clipWrites s vw vh) ∧
      (∀ i, Clipped vw vh i → (∀ j, i < j → Clipped vw vh j → address s j ≠ address s i) →
        ∀ k, k < 4 → Memory.byte? t.outmem (4 * address s i + k) = some (byteOf (s.pixel i) k)) ∧
      (s.stride = 0 → ∀ c, c < vw → Memory.readWord t.outmem (s.dst.toNat + c) = s.pixel (4 * (vh - 1) + c)) ∧
      (∀ i j, Clipped vw vh i → Clipped vw vh j → i < j → address s i = address s j → s.stride.toNat < vw)

/-- 41_block_decode.md R100, R107: when no two texels inside the clip share an address (STRIDE at least VW, or one row),
every one of them is left in OUTMEM. -/
def Obligations.DistinctTexelsAllWritten : Prop :=
  ∀ (s : State) (vw vh : Nat), (Instr.decodeBlock vw vh).wf = true → s.err = .none →
    last s vw vh < s.params.outWords → (vw ≤ s.stride.toNat ∨ vh = 1) →
    ∃ t, exec (.decodeBlock vw vh) s = .next t ∧
      ∀ i, Clipped vw vh i → Memory.readWord t.outmem (address s i) = s.pixel i

/-- 41_block_decode.md R108: the bounds check on the largest address inside the clip, made before any write: at or past
OUT_WORDS it raises BOUNDS and nothing is written; below it the OutWrites of the clip are made, and each of them is in
range. -/
def Obligations.BoundsCheckPrecedesWrites : Prop :=
  ∀ (s : State) (vw vh : Nat), (Instr.decodeBlock vw vh).wf = true → s.err = .none →
    (s.params.outWords ≤ last s vw vh → exec (.decodeBlock vw vh) s = .next { s with err := .bounds }) ∧
    (last s vw vh < s.params.outWords →
      exec (.decodeBlock vw vh) s = .next { s with outmem := Memory.writeWords s.outmem (clipWrites s vw vh) } ∧
      (∀ p ∈ clipWrites s vw vh, p.1 < s.params.outWords)) ∧
    (∀ i, Clipped vw vh i → address s i ≤ last s vw vh) ∧ (∃ i, Clipped vw vh i ∧ address s i = last s vw vh)

/-- 41_block_decode.md R112: the largest address is below 2^34 and is compared exactly, so an address past the 32-bit
range is a BOUNDS error. -/
def Obligations.NoAddressWraps : Prop :=
  ∀ (s : State) (vw vh : Nat), (Instr.decodeBlock vw vh).wf = true →
    last s vw vh < 2 ^ 34 ∧
    (s.params.outWords ≤ 2 ^ 32 → s.err = .none → 2 ^ 32 ≤ last s vw vh →
      exec (.decodeBlock vw vh) s = .next { s with err := .bounds })

/-- 20_memory.md R52 and the spec's own inference "[derived: from rule R107]" (41_block_decode.md R113): with
VW = VH = 4 the command makes all 16 OutWrites, in texel order. -/
def Obligations.FullClipWritesSixteenTexels : Prop :=
  ∀ s : State, s.err = .none → last s 4 4 < s.params.outWords →
    s.commandWrites (.decodeBlock 4 4) = (List.range 16).map (fun i => (address s i, s.pixel i)) ∧
    exec (.decodeBlock 4 4) s =
      .next { s with outmem := Memory.writeWords s.outmem ((List.range 16).map fun i => (address s i, s.pixel i)) }

/-- 41_block_decode.md R110: the result of a DECODE_BLOCK is a function of BLK0..BLK3, DST, STRIDE, VW, VH and the LUTs
(with OUT_WORDS and the pending error): two states that agree on those and on OUTMEM are left with the same OUTMEM and
ERR, whatever else they hold. -/
def Obligations.DecodeDependsOnlyOnItsInputs : Prop :=
  ∀ (s s' : State) (vw vh : Nat),
    s.blk0 = s'.blk0 → s.blk1 = s'.blk1 → s.blk2 = s'.blk2 → s.blk3 = s'.blk3 → s.dst = s'.dst →
    s.stride = s'.stride → s.alut = s'.alut → s.rlut = s'.rlut → s.glut = s'.glut → s.blut = s'.blut →
    s.params.outWords = s'.params.outWords → s.err = s'.err → s.outmem = s'.outmem →
    ∃ t t', exec (.decodeBlock vw vh) s = .next t ∧ exec (.decodeBlock vw vh) s' = .next t' ∧
      t.outmem = t'.outmem ∧ t.err = t'.err

/-! ## The register port and the error field -/

/-- 43_control.md R152: what a host read returns, for every offset and size, and that it changes no state of the block
(the script records the value). -/
def Obligations.RegisterReadValue : Prop :=
  ∀ (s : State) (acc : Access) (rest : List HostAction), About s (.read acc) rest →
    step s = .next { s with
      script := rest
      reads :=
        (if acc.size ≠ 4 then 0
         else if acc.offset = 0x04 then BitVec.ofNat 32 (16 * s.err.code.toNat + s.format.code.toNat)
         else if acc.offset = 0x08 then s.blk0
         else if acc.offset = 0x0C then s.blk1
         else if acc.offset = 0x10 then s.blk2
         else if acc.offset = 0x14 then s.blk3
         else if acc.offset = 0x18 then s.dst
         else if acc.offset = 0x1C then s.stride
         else 0) :: s.reads }

/-- 43_control.md R153: what a host write does, for every offset and size, whatever ERR holds. -/
def Obligations.RegisterWriteEffect : Prop :=
  ∀ (s : State) (acc : Access) (v : Word) (rest : List HostAction), About s (.write acc v) rest →
    step s =
      if acc.size = 4 ∧ acc.offset = 0x00 then writeCmd v { s with script := rest }
      else if acc.size = 4 ∧ acc.offset = 0x08 then .next { s with script := rest, blk0 := v }
      else if acc.size = 4 ∧ acc.offset = 0x0C then .next { s with script := rest, blk1 := v }
      else if acc.size = 4 ∧ acc.offset = 0x10 then .next { s with script := rest, blk2 := v }
      else if acc.size = 4 ∧ acc.offset = 0x14 then .next { s with script := rest, blk3 := v }
      else if acc.size = 4 ∧ acc.offset = 0x18 then .next { s with script := rest, dst := v }
      else if acc.size = 4 ∧ acc.offset = 0x1C then .next { s with script := rest, stride := v }
      else .next { s with script := rest, err := if s.err = .none then .badAccess else s.err }

/-- 10_state.md R22: the STATUS word; only SET_FORMAT and reset change FORMAT; only an error, CLEAR_ERR and reset change
ERR: it leaves NONE only for an error whose cause in the table of 60_exceptions.md R160 the host's action is, and it
leaves an error only for NONE. -/
def Obligations.StatusFieldsAndWriters : Prop :=
  ∀ s : State,
    (s.statusWord.toNat = 16 * s.err.code.toNat + s.format.code.toNat ∧
      statusFmtField s.statusWord = s.format.code ∧ statusErrField s.statusWord = s.err.code ∧
      s.statusWord.extractLsb' 2 2 = 0 ∧ s.statusWord.extractLsb' 8 24 = 0 ∧ s.err.code.toNat ≤ 3) ∧
    (∀ t, step s = .next t →
      (t.format ≠ s.format → ∃ act rest, s.script = act :: rest ∧ ((∃ f, Issues act (.setFormat f)) ∨ IsReset act)) ∧
      (t.err ≠ s.err → ∃ act rest, s.script = act :: rest ∧
        ((s.err = .none ∧ Causes s act t.err) ∨ (t.err = .none ∧ (Issues act .clearErr ∨ IsReset act)))))

/-- 60_exceptions.md R161: raising an error records its code if none is held and has no other effect; and an error is
precise: a step that sets ERR to an error found none held and has changed nothing of the block or of OUTMEM but ERR (the
script, the recorded reads and the draw counter are the model's own fields, logs 1, 6 and 15). -/
def Obligations.FirstErrorIsKept : Prop :=
  (∀ (s : State) (c : ErrCode), s.raise c = { s with err := if s.err = .none then c else s.err }) ∧
  (∀ s t : State, step s = .next t → t.err ≠ s.err → t.err ≠ .none →
    s.err = .none ∧ t = { s with err := t.err, script := t.script, reads := t.reads, draws := t.draws })

/-- 10_state.md R20, R29: a host write of the register, or reset, is the only thing that changes BLK0 to BLK3, DST and
STRIDE; a SET_FORMAT command, reset or its build is the only thing that changes the shifts and the LUT state; a byte of
OUTMEM changes only in a word that a DECODE_BLOCK writes, run whole or abandoned by a reset, or that the host writes; the
parameters never change (log 2). -/
def Obligations.EachRegisterHasItsWriters : Prop :=
  ∀ s t : State, step s = .next t →
    t.params = s.params ∧
    (t.blk0 ≠ s.blk0 → ∃ act rest, s.script = act :: rest ∧ (act = .write Reg.blk0.access t.blk0 ∨ IsReset act)) ∧
    (t.blk1 ≠ s.blk1 → ∃ act rest, s.script = act :: rest ∧ (act = .write Reg.blk1.access t.blk1 ∨ IsReset act)) ∧
    (t.blk2 ≠ s.blk2 → ∃ act rest, s.script = act :: rest ∧ (act = .write Reg.blk2.access t.blk2 ∨ IsReset act)) ∧
    (t.blk3 ≠ s.blk3 → ∃ act rest, s.script = act :: rest ∧ (act = .write Reg.blk3.access t.blk3 ∨ IsReset act)) ∧
    (t.dst ≠ s.dst → ∃ act rest, s.script = act :: rest ∧ (act = .write Reg.dst.access t.dst ∨ IsReset act)) ∧
    (t.stride ≠ s.stride →
      ∃ act rest, s.script = act :: rest ∧ (act = .write Reg.stride.access t.stride ∨ IsReset act)) ∧
    (t.shifts ≠ s.shifts → ∃ act rest, s.script = act :: rest ∧ ((∃ f, Issues act (.setFormat f)) ∨ IsReset act)) ∧
    (t.lutValid ≠ s.lutValid ∨ t.alut ≠ s.alut ∨ t.rlut ≠ s.rlut ∨ t.glut ≠ s.glut ∨ t.blut ≠ s.blut →
      s.lutValid = false ∨
        ∃ act rest, s.script = act :: rest ∧ ((∃ f, Issues act (.setFormat f)) ∨ IsReset act)) ∧
    (∀ b, Memory.byte? t.outmem b ≠ Memory.byte? s.outmem b →
      ∃ act rest, s.script = act :: rest ∧
        ((∃ w i, WritesTexel s w i (b / 4) ∧ (WritesCmd act w ∨ act = .resetDuring w)) ∨
          (b / 4 < s.params.outWords ∧ ∃ v, act = .writeOut (b / 4) v)))

/-! ## Reset -/

/-- The assertion of reset sets every block register, then the reset build at the BGRA shifts ends with LUT_VALID = 1;
OUTMEM is not touched (70_reset_and_hazards.md R180, R181). That the two are two steps, and that the LUT memories keep
what they held between them, is log 7 (DEDUCED). -/
def Obligations.ResetAndItsBuild : Prop :=
  ∀ (s : State) (rest : List HostAction), About s .reset rest →
    step s = .next (afterAssertion s s.outmem s.draws rest) ∧
    step (afterAssertion s s.outmem s.draws rest) =
      .next { afterAssertion s s.outmem s.draws rest with
        alut := buildAlut { b := .s0, g := .s8, r := .s16, a := .s24 }
        rlut := buildRlut s.params { b := .s0, g := .s8, r := .s16, a := .s24 }
        glut := buildGlut s.params { b := .s0, g := .s8, r := .s16, a := .s24 }
        blut := buildBlut s.params { b := .s0, g := .s8, r := .s16, a := .s24 }
        lutValid := true }

/-- 10_state.md R30: the table of the state after reset, whatever the parameters and OUTMEM; State.reset is such a
state, with no byte of OUTMEM listed. -/
def Obligations.ResetStateTable : Prop :=
  (∀ (p : Params) (m : Memory),
    (State.resetWith p m).format = .bgra ∧
    (State.resetWith p m).shifts = { b := .s0, g := .s8, r := .s16, a := .s24 } ∧
    (State.resetWith p m).lutValid = true ∧
    (State.resetWith p m).lutsBuilt ∧
    (State.resetWith p m).err = .none ∧ (State.resetWith p m).statusWord = 0 ∧
    (State.resetWith p m).blk0 = 0 ∧ (State.resetWith p m).blk1 = 0 ∧ (State.resetWith p m).blk2 = 0 ∧
    (State.resetWith p m).blk3 = 0 ∧ (State.resetWith p m).dst = 0 ∧ (State.resetWith p m).stride = 0 ∧
    (State.resetWith p m).outmem = m) ∧
  ∃ p : Params, State.reset = State.resetWith p []

/-- From the assertion of reset until the reset build has ended every host access is held: the step is the build, the
script and what it has read are unchanged, and after it LUT_VALID = 1 over the tables of the current shifts. R183
(70_reset_and_hazards.md) says it of the register port; that the build is a step of its own, and that OUTMEM accesses and
further resets are held with it, is log 7 (DEDUCED). -/
def Obligations.PendingBuildHoldsHostAccesses : Prop :=
  ∀ s : State, s.lutValid = false →
    ∃ t, step s = .next t ∧ t.script = s.script ∧ t.reads = s.reads ∧ t.lutValid = true ∧ t.lutsBuilt ∧
      t = { s with alut := t.alut, rlut := t.rlut, glut := t.glut, blut := t.blut, lutValid := true }

/-- A reset that abandons a DECODE_BLOCK leaves some prefix, in texel order, of its OutWrites, from none to all
(70_reset_and_hazards.md R182); a reset during any other command, or one that is discarded or out of bounds, leaves OUTMEM
as it was (log 8, DEDUCED); every other effect is the reset, with the LUT memories kept until its build (log 7, DEDUCED)
and the draw counter advanced (log 6, DESIGN CHOICE). -/
def Obligations.ResetDuringCommandKeepsPrefix : Prop :=
  ∀ (s : State) (w : Word) (rest : List HostAction), About s (.resetDuring w) rest →
    (∀ vw vh, decode w = .ok (.decodeBlock vw vh) → s.err = .none → last s vw vh < s.params.outWords →
      ∃ n, n ≤ vw * vh ∧
        step s = .next (afterAssertion s
          (Memory.writeWords s.outmem ((clipWrites s vw vh).take n)) (s.draws + 1) rest)) ∧
    ((∀ vw vh, decode w = .ok (.decodeBlock vw vh) → s.err ≠ .none ∨ s.params.outWords ≤ last s vw vh) →
      step s = .next (afterAssertion s s.outmem (s.draws + 1) rest))

/-! ## Invariant and whole-machine rules -/

/-- The state after reset is legal, with any legal parameters (State.reset's OUT_WORDS is the model's choice,
log 3). -/
def Obligations.ResetStateIsLegal : Prop :=
  State.reset.Inv ∧
    ∀ (p : Params) (m : Memory), p.wf → Memory.wf m → (∀ c ∈ m, c.1 < 4 * p.outWords) → (State.resetWith p m).Inv

/-- Every step keeps a legal state legal: the parameters, the shifts of the active format, LUTs built for them whenever
LUT_VALID = 1, OUTMEM in canonical form and inside its bounds (10_state.md R25 to R27, R29; 00_scope.md R6, R7). -/
def Obligations.StepKeepsLegalState : Prop :=
  ∀ s t : State, s.Inv → step s = .next t → t.Inv

/-- Nothing hangs and nothing is refused: a step answers a next state, but for a host access to an OUTMEM word that does
not exist (the model's fault, log 16, DESIGN CHOICE), which no command makes. That no command hangs is the spec's own
inference, "[derived: from 40_format_and_lut.md rule R84 and 41_block_decode.md rule R100]" (70_reset_and_hazards.md
R189); that a step with an empty script answers the same state is log 17 (DESIGN CHOICE). -/
def Obligations.StepAnswersOrHostLeavesOutmem : Prop :=
  ∀ s : State, (∃ t, step s = .next t) ∨
    ∃ act rest a, s.lutValid = true ∧ s.script = act :: rest ∧ s.params.outWords ≤ a ∧
      step s = .fault (.outsideOutmem a) ∧
      (act = .readOut a ∨ (∃ v, act = .writeOut a v) ∨ ∃ w, act = .readOutDuring w a)

/-- 10_state.md R29, 20_memory.md R42, R43: a host write of an OUTMEM word changes its four bytes and no other byte, and
a host read returns the word. -/
def Obligations.OutmemHostAccess : Prop :=
  ∀ (s : State) (a : Nat) (v : Word) (rest : List HostAction), About s (.writeOut a v) (.readOut a :: rest) →
    a < s.params.outWords →
    ∃ m, step s = .next { s with outmem := m, script := .readOut a :: rest } ∧
      (∀ b, b / 4 ≠ a → Memory.byte? m b = Memory.byte? s.outmem b) ∧
      (∀ k, k < 4 → Memory.byte? m (4 * a + k) = some (byteOf v k)) ∧
      step { s with outmem := m, script := .readOut a :: rest } =
        .next { s with outmem := m, script := rest, reads := v :: s.reads }

/-- 20_memory.md R43, R53 in the form of log 9 (DESIGN CHOICE): an OUTMEM read that races a command returns the old word
or the whole word of one texel that the command writes there, never a mix, and the command has its whole effect; where at
most one texel is written there, that is the old word or the new word. -/
def Obligations.RacingReadSeesOldOrNew : Prop :=
  ∀ (s : State) (w : Word) (a : Nat) (rest : List HostAction), About s (.readOutDuring w a) rest →
    a < s.params.outWords →
    ∃ t v, writeCmd w { s with script := rest, draws := s.draws + 1 } = .next t ∧
      step s = .next { t with reads := v :: t.reads } ∧
      (v = Memory.readWord s.outmem a ∨ ∃ i, WritesTexel s w i a ∧ v = s.pixel i) ∧
      ((∀ i j, WritesTexel s w i a → WritesTexel s w j a → i = j) →
        v = Memory.readWord s.outmem a ∨ v = Memory.readWord t.outmem a)

/-! ## Byte order, scripts and the image driver -/

/-- Little-endian fields (20_memory.md R40), and ldblk (30_encoding.md R69) leaves the block's fields in BLK0..BLK3
(10_state.md R21): the spec's own inference, "[derived: from rule R40 and 10_state.md rule R21]" (20_memory.md R41). -/
def Obligations.LoadBlockPacksLittleEndian : Prop :=
  (∀ (b : List Byte) (o : Nat),
    (o + 2 ≤ b.length → (le16 b o).toNat = byteAt b o ||| (byteAt b (o + 1) <<< 8)) ∧
    (o + 4 ≤ b.length → (le32 b o).toNat = (le16 b o).toNat ||| ((le16 b (o + 2)).toNat <<< 16)) ∧
    (o + 8 ≤ b.length → (le64 b o).toNat = (le32 b o).toNat ||| ((le32 b (o + 4)).toNat <<< 32))) ∧
  (∀ (s : State) (b : List Byte) (rest : List HostAction), b.length = 16 → s.lutValid = true →
    s.script = (ScriptLine.ldblk b).expand ++ rest →
    ∃ t : State, Host.Core.run Sys2Proof.core 4 s = .next t ∧
      t = { s with script := rest, blk0 := le32 b 0, blk1 := le32 b 4, blk2 := le32 b 8, blk3 := le32 b 12 } ∧
      t.blk1 ++ t.blk0 = le64 b 0 ∧ t.blk2.extractLsb' 0 16 = le16 b 8 ∧ t.blk2.extractLsb' 16 16 = le16 b 10 ∧
      t.blk3 = le32 b 12 ∧ heldBlock t = b)

/-- 30_encoding.md R69: the pseudo-instructions and their expansions; for an ldblk line that has not 16 bytes, which R69
does not allow, the same formula is the model's choice (log 21). -/
def Obligations.PseudoInstructionsExpand : Prop :=
  ScriptLine.decblkFull.expand = (ScriptLine.decblk 4 4).expand ∧
  (∀ b : List Byte, (ScriptLine.ldblk b).expand =
    expandScript [.wr .blk0 (le32 b 0), .wr .blk1 (le32 b 4), .wr .blk2 (le32 b 8), .wr .blk3 (le32 b 12)]) ∧
  (∀ d s : Word, (ScriptLine.setdst d s).expand = expandScript [.wr .dst d, .wr .stride s])

/-- 42_host_driver.md R130, R131: the buffer sizes, with ceil(n / 4) = (n + 3) / 4 the least count of fours that
covers n. -/
def Obligations.BufferSizeFormulas : Prop :=
  ∀ width height : Nat,
    inputBufferSize width height = (width + 3) / 4 * ((height + 3) / 4) * 16 ∧
    outputBufferSize width height = width * height * 4 ∧
    (∀ n : Nat, width ≤ 4 * n ↔ (width + 3) / 4 ≤ n)

/-- 42_host_driver.md R133: if any of the checks (a) to (d) fails, Decode returns the invalid-argument result, issues no
command and writes nothing. -/
def Obligations.DriverRejectsInvalidArguments : Prop :=
  ∀ (img : Image) (s : State),
    (¬ (1 ≤ img.width ∧ 1 ≤ img.height) ∨
      ¬ ((img.width + 3) / 4 * ((img.height + 3) / 4) * 16 ≤ img.input.length) ∨
      ¬ (img.obase + img.width * img.height ≤ s.params.outWords) ∨
      ¬ (img.width < 2 ^ 32 ∧ img.obase < 2 ^ 32)) →
    driverDecode img s = .next (.invalidArgument, s)

/-- Decode issues exactly xb * yb DECODE_BLOCK commands and 4 * xb * yb BLK writes: the spec's own inference,
"[derived: from rule R134]" (42_host_driver.md R140). -/
def Obligations.DriverCommandCount : Prop :=
  ∀ (img : Image) (n : Nat), img.valid n = true →
    img.script.countP isDecodeWrite = (img.width + 3) / 4 * ((img.height + 3) / 4) ∧
    img.script.countP isBlkWrite = 4 * ((img.width + 3) / 4) * ((img.height + 3) / 4)

/-- 42_host_driver.md R134 and the spec's own inferences "[derived: from rule R134 and 41_block_decode.md rules R105 and
R107]" (R137) and "[derived: from rule R133 and 41_block_decode.md rule R108]" (R135, no command raises an error): when
the checks pass and no error is pending, Decode succeeds; OUTMEM then holds at OBASE + y*width + x the pixel of texel
(y%4)*4 + x%4 of block (y/4)*xb + x/4, for every pixel of the image, in the active format, and no other byte of OUTMEM
has changed. Where the driver's program stands in the script is log 22 (DESIGN CHOICE). With an error pending:
DriverReportsPendingError. -/
def Obligations.DriverDecodesImage : Prop :=
  ∀ (img : Image) (s : State), s.Inv → s.err = .none → img.valid s.params.outWords = true →
    ∃ t : State, driverDecode img s = .next (.success, t) ∧ t.err = .none ∧ t.script = s.script ∧
      t.format = s.format ∧
      (∀ x y k, x < img.width → y < img.height → k < 4 →
        Memory.byte? t.outmem (4 * (img.obase + y * img.width + x) + k) =
          some (byteOf (blockPixel s.params s.format
            ((img.input.drop (16 * (y / 4 * ((img.width + 3) / 4) + x / 4))).take 16) (y % 4 * 4 + x % 4)) k)) ∧
      (∀ a, (∀ x y, x < img.width → y < img.height → a / 4 ≠ img.obase + y * img.width + x) →
        Memory.byte? t.outmem a = Memory.byte? s.outmem a)

/-- 42_host_driver.md R135 with 60_exceptions.md R163: when the checks pass and an error is pending, every DECODE_BLOCK of
Decode is discarded and the final rd STATUS shows the error, so Decode answers the invalid-argument result, and OUTMEM, ERR
and the format are as they were. Where the driver's program stands in the script is log 22 (DESIGN CHOICE). -/
def Obligations.DriverReportsPendingError : Prop :=
  ∀ (img : Image) (s : State), s.err ≠ .none → img.valid s.params.outWords = true →
    ∃ t : State, driverDecode img s = .next (.invalidArgument, t) ∧ t.outmem = s.outmem ∧ t.err = s.err ∧
      t.format = s.format ∧ t.script = s.script
end

