-- ==== Sys2Proof/Laws/Decode.lean ====
section
/-! SUPPORT. What the decoder can answer: one lemma for a word that a row matches and one for a word that none does. -/

namespace Sys2Proof

/-- The decoder's four answers, each with the word's match (30_encoding.md R65). -/
theorem decode_cases {w : Word} {i : Instr} (h : decode w = .ok i) :
    (w &&& 0xFFFFFFFF = 0x00000000 ∧ i = .nop) ∨
    (w &&& 0xFFFF00FF = 0x00000001 ∧ i = .setFormat (fmtselField w)) ∨
    (w &&& 0xFFFFF0FF = 0x00000002 ∧ i = .decodeBlock (clipWidthField w) (clipHeightField w)) ∨
    (w &&& 0xFFFFFFFF = 0x00000003 ∧ i = .clearErr) := by
  unfold decode at h
  split at h
  · rename_i r hr
    have hw := List.find?_some hr
    have hm := List.mem_of_find?_eq_some hr
    simp only [OpcodeRow.hits, beq_iff_eq] at hw
    simp only [opcodeTable, List.mem_cons, List.not_mem_nil, or_false] at hm
    cases h
    rcases hm with rfl | rfl | rfl | rfl
    · exact .inl ⟨hw, rfl⟩
    · exact .inr (.inl ⟨hw, rfl⟩)
    · exact .inr (.inr (.inl ⟨hw, rfl⟩))
    · exact .inr (.inr (.inr ⟨hw, rfl⟩))
  · cases h

/-- A word that no row matches is no command. -/
theorem decode_none {w : Word} (h : ∀ r ∈ opcodeTable, w &&& r.mask ≠ r.pattern) :
    decode w = .error (rejectReason w) := by
  unfold decode
  rw [List.find?_eq_none.2 fun r hr => by simpa [OpcodeRow.hits] using h r hr]

/-- Every row fixes the opcode bits of the words it matches. -/
theorem opcode_of_hits {r : OpcodeRow} {w : Word} (hr : r ∈ opcodeTable) (h : r.hits w = true) :
    w &&& 0xF = r.pattern := by
  have key : ∀ r ∈ opcodeTable, r.mask &&& 0xF = 0xF ∧ r.pattern &&& 0xF = r.pattern := by decide
  obtain ⟨hm, hp⟩ := key r hr
  rw [← hp, ← beq_iff_eq.1 h, BitVec.and_assoc, hm]

/-- No word matches two rows. -/
theorem rows_disjoint {r r' : OpcodeRow} {w : Word} (hr : r ∈ opcodeTable) (hr' : r' ∈ opcodeTable)
    (h : r.hits w = true) (h' : r'.hits w = true) : r = r' := by
  have key : ∀ r ∈ opcodeTable, ∀ r' ∈ opcodeTable, r.pattern = r'.pattern → r = r' := by decide
  exact key r hr r' hr' ((opcode_of_hits hr h).symm.trans (opcode_of_hits hr' h'))

/-- A word that a row matches is that row's command (30_encoding.md R65). -/
theorem decode_of_hits {r : OpcodeRow} {w : Word} (hr : r ∈ opcodeTable) (h : r.hits w = true) :
    decode w = .ok (r.op.operands w) := by
  unfold decode
  split
  · rename_i r' hr'
    rw [rows_disjoint (List.mem_of_find?_eq_some hr') hr (by simpa using List.find?_some hr') h]
  · rename_i hn
    exact absurd h (List.find?_eq_none.1 hn r hr)

/-- A clip count of a word is one that a field holds. -/
theorem clipCountOk_field (w : Word) (o : Nat) : clipCountOk ((w.extractLsb' o 2).toNat + 1) = true := by
  have := (w.extractLsb' o 2).isLt
  simp only [clipCountOk, Bool.and_eq_true, decide_eq_true_eq]
  omega

/-- The decoder gives well-formed commands only. -/
theorem decode_wf {w : Word} {i : Instr} (h : decode w = .ok i) : i.wf = true := by
  rcases decode_cases h with ⟨-, rfl⟩ | ⟨-, rfl⟩ | ⟨-, rfl⟩ | ⟨-, rfl⟩
  · rfl
  · rfl
  · simp only [Instr.wf, clipWidthField, clipHeightField, clipCountOk_field, Bool.and_self]
  · rfl

/-- The clip counts of a well-formed DECODE_BLOCK. -/
theorem wf_decodeBlock {vw vh : Nat} (h : (Instr.decodeBlock vw vh).wf = true) :
    1 ≤ vw ∧ vw ≤ 4 ∧ 1 ≤ vh ∧ vh ≤ 4 := by
  simp only [Instr.wf, clipCountOk, Bool.and_eq_true, decide_eq_true_eq] at h
  omega

end Sys2Proof
end

