-- ==== Sys2Proof/Laws/Memory.lean ====
section
/-! SUPPORT. The laws of the output memory: read after write, the frame of a write, and the canonical form, for a byte,
a word and a list of OutWrites. -/

namespace Sys2Proof.Machine

/-- Reading a byte after writing one. -/
theorem byte?_writeByte (m : Memory) (a b : Nat) (v : Byte) :
    Memory.byte? (Memory.writeByte m a v) b = if b = a then some v else Memory.byte? m b := by
  induction m with
  | nil => simp [Memory.writeByte, Memory.byte?, eq_comm]
  | cons c m ih =>
    obtain ⟨d, w⟩ := c
    simp only [Memory.writeByte]
    split
    · simp [Memory.byte?, eq_comm]
    · split
      · subst_vars
        simp only [Memory.byte?]
        grind
      · simp only [Memory.byte?, ih]
        grind

/-- A cell of the memory after a byte write is the written one or was there before. -/
theorem mem_writeByte {m : Memory} {a : Nat} {v : Byte} {c : Host.Cell} (h : c ∈ Memory.writeByte m a v) :
    c = (a, v) ∨ c ∈ m := by
  induction m with
  | nil => simpa [Memory.writeByte] using h
  | cons d m ih =>
    obtain ⟨b, w⟩ := d
    simp only [Memory.writeByte] at h
    split at h
    · simpa using h
    · split at h
      · rcases List.mem_cons.1 h with h | h
        · exact .inl h
        · exact .inr (List.mem_cons_of_mem _ h)
      · rcases List.mem_cons.1 h with h | h
        · exact .inr (h ▸ List.mem_cons_self)
        · rcases ih h with h | h
          · exact .inl h
          · exact .inr (List.mem_cons_of_mem _ h)

/-- A byte write keeps the canonical form. -/
theorem wf_writeByte {m : Memory} (h : Memory.wf m) (a : Nat) (v : Byte) : Memory.wf (Memory.writeByte m a v) := by
  induction m with
  | nil => simp [Memory.wf, Memory.writeByte]
  | cons d m ih =>
    obtain ⟨b, w⟩ := d
    obtain ⟨hd, ht⟩ := List.pairwise_cons.1 h
    simp only [Memory.writeByte]
    split
    · rename_i hab
      refine List.pairwise_cons.2 ⟨fun c hc => ?_, h⟩
      rcases List.mem_cons.1 hc with rfl | hc
      · exact hab
      · exact Nat.lt_trans hab (hd c hc)
    · split
      · subst_vars
        exact List.pairwise_cons.2 ⟨hd, ht⟩
      · refine List.pairwise_cons.2 ⟨fun c hc => ?_, ih ht⟩
        rcases mem_writeByte hc with rfl | hc
        · show b < a
          omega
        · exact hd c hc

/-- Two canonical memories whose bytes read the same are the same list. -/
theorem memory_ext {m m' : Memory} (h : Memory.wf m) (h' : Memory.wf m')
    (heq : ∀ a, Memory.byte? m a = Memory.byte? m' a) : m = m' := by
  have none_of : ∀ {n : Memory} {a : Nat}, (∀ c ∈ n, a < c.1) → Memory.byte? n a = none := by
    intro n a hn
    induction n with
    | nil => rfl
    | cons c n ih =>
      have hc := hn c List.mem_cons_self
      simp only [Memory.byte?]
      rw [if_neg (by omega), ih fun d hd => hn d (List.mem_cons_of_mem _ hd)]
  induction m generalizing m' with
  | nil =>
    cases m' with
    | nil => rfl
    | cons d m' => simpa [Memory.byte?] using heq d.1
  | cons c m ih =>
    cases m' with
    | nil => simpa [Memory.byte?] using heq c.1
    | cons d m' =>
      obtain ⟨hc, ht⟩ := List.pairwise_cons.1 h
      obtain ⟨hd, ht'⟩ := List.pairwise_cons.1 h'
      have key : c.1 = d.1 := by
        rcases Nat.lt_trichotomy c.1 d.1 with hlt | he | hlt
        · have := heq c.1
          rw [none_of (n := d :: m') (by
            intro e he
            rcases List.mem_cons.1 he with rfl | he
            · exact hlt
            · exact Nat.lt_trans hlt (hd e he))] at this
          simp [Memory.byte?] at this
        · exact he
        · have := heq d.1
          rw [none_of (n := c :: m) (by
            intro e he
            rcases List.mem_cons.1 he with rfl | he
            · exact hlt
            · exact Nat.lt_trans hlt (hc e he))] at this
          simp [Memory.byte?] at this
      have val : c.2 = d.2 := by
        have := heq c.1
        simpa [Memory.byte?, key] using this
      have tail : m = m' := by
        refine ih ht ht' fun a => ?_
        by_cases ha : a = c.1
        · rw [ha, none_of hc, key, none_of hd]
        · have := heq a
          simpa [Memory.byte?, Ne.symm ha, key ▸ Ne.symm ha] using this
      rw [tail, show c = d from Prod.ext key val]

/-- Reading a byte after an OutWrite: byte k of the word for the four bytes of its pixel, the old byte elsewhere. -/
theorem byte?_writeWord (m : Memory) (a b : Nat) (v : Word) :
    Memory.byte? (Memory.writeWord m a v) b = if b / 4 = a then some (byteOf v (b % 4)) else Memory.byte? m b := by
  simp only [Memory.writeWord, byte?_writeByte]
  by_cases h : b / 4 = a
  · have hb : b = 4 * a ∨ b = 4 * a + 1 ∨ b = 4 * a + 2 ∨ b = 4 * a + 3 := by omega
    rcases hb with rfl | rfl | rfl | rfl <;> rw [if_pos h]
    · rw [if_neg (by omega), if_neg (by omega), if_neg (by omega), if_pos rfl]; congr 2; omega
    · rw [if_neg (by omega), if_neg (by omega), if_pos rfl]; congr 2; omega
    · rw [if_neg (by omega), if_pos rfl]; congr 2; omega
    · rw [if_pos rfl]; congr 2; omega
  · rw [if_neg h, if_neg (by omega), if_neg (by omega), if_neg (by omega), if_neg (by omega)]

/-- An OutWrite keeps the canonical form. -/
theorem wf_writeWord {m : Memory} (h : Memory.wf m) (a : Nat) (v : Word) : Memory.wf (Memory.writeWord m a v) :=
  wf_writeByte (wf_writeByte (wf_writeByte (wf_writeByte h _ _) _ _) _ _) _ _

/-- A cell of the memory after an OutWrite is one of the four written or was there before. -/
theorem mem_writeWord {m : Memory} {a : Nat} {v : Word} {c : Host.Cell} (h : c ∈ Memory.writeWord m a v) :
    c.1 / 4 = a ∨ c ∈ m := by
  rcases mem_writeByte h with rfl | h
  · left; show (4 * a + 3) / 4 = a; omega
  rcases mem_writeByte h with rfl | h
  · left; show (4 * a + 2) / 4 = a; omega
  rcases mem_writeByte h with rfl | h
  · left; show (4 * a + 1) / 4 = a; omega
  rcases mem_writeByte h with rfl | h
  · left; show 4 * a / 4 = a; omega
  exact .inr h

@[simp] theorem writeWords_nil (m : Memory) : Memory.writeWords m [] = m := rfl

@[simp] theorem writeWords_cons (m : Memory) (a : Nat) (v : Word) (ws : List (Nat × Word)) :
    Memory.writeWords m ((a, v) :: ws) = Memory.writeWords (Memory.writeWord m a v) ws := rfl

theorem writeWords_append (m : Memory) (ws ws' : List (Nat × Word)) :
    Memory.writeWords m (ws ++ ws') = Memory.writeWords (Memory.writeWords m ws) ws' := by
  induction ws generalizing m with
  | nil => rfl
  | cons w ws ih => exact ih _

/-- A list of OutWrites keeps the canonical form. -/
theorem wf_writeWords {m : Memory} (h : Memory.wf m) (ws : List (Nat × Word)) : Memory.wf (Memory.writeWords m ws) := by
  induction ws generalizing m with
  | nil => exact h
  | cons w ws ih => exact ih (wf_writeWord h _ _)

/-- A cell of the memory after a list of OutWrites belongs to a written word or was there before. -/
theorem mem_writeWords {m : Memory} {ws : List (Nat × Word)} {c : Host.Cell} (h : c ∈ Memory.writeWords m ws) :
    (∃ w ∈ ws, c.1 / 4 = w.1) ∨ c ∈ m := by
  induction ws generalizing m with
  | nil => exact .inr h
  | cons w ws ih =>
    rcases ih h with ⟨w', hw', hc⟩ | h
    · exact .inl ⟨w', List.mem_cons_of_mem _ hw', hc⟩
    · rcases mem_writeWord h with h | h
      · exact .inl ⟨w, List.mem_cons_self, h⟩
      · exact .inr h

/-- A byte outside every written word is as before. -/
theorem byte?_writeWords_frame {ws : List (Nat × Word)} {b : Nat} (h : ∀ w ∈ ws, b / 4 ≠ w.1) (m : Memory) :
    Memory.byte? (Memory.writeWords m ws) b = Memory.byte? m b := by
  induction ws generalizing m with
  | nil => rfl
  | cons w ws ih =>
    obtain ⟨a, v⟩ := w
    rw [writeWords_cons, ih (fun w hw => h w (List.mem_cons_of_mem _ hw)), byte?_writeWord,
      if_neg (h (a, v) List.mem_cons_self)]

/-- A byte of the word that the LAST OutWrite to its address wrote. -/
theorem byte?_writeWords_last {ws ws' : List (Nat × Word)} {a b : Nat} {v : Word} (hb : b / 4 = a)
    (h : ∀ w ∈ ws', a ≠ w.1) (m : Memory) :
    Memory.byte? (Memory.writeWords m (ws ++ (a, v) :: ws')) b = some (byteOf v (b % 4)) := by
  rw [writeWords_append, writeWords_cons, byte?_writeWords_frame (by rw [hb]; exact h), byte?_writeWord, if_pos hb]

/-- Four bytes put together, as a number: the first is the least significant. -/
theorem wordOf_toNat (b0 b1 b2 b3 : Byte) :
    (wordOf b0 b1 b2 b3).toNat = b0.toNat + b1.toNat * 2 ^ 8 + b2.toNat * 2 ^ 16 + b3.toNat * 2 ^ 24 := by
  have e : ∀ x y : Nat, y < 256 → x * 2 ^ 8 ||| y = x * 256 + y := by
    intro x y hy
    rw [Nat.mul_comm x (2 ^ 8), ← Nat.two_pow_add_eq_or_of_lt hy]
    omega
  simp only [wordOf, BitVec.toNat_append, Nat.shiftLeft_eq]
  rw [e _ _ b2.isLt, e _ _ b1.isLt, e _ _ b0.isLt]
  omega

/-- Byte k of a word, as a number. -/
theorem byteOf_toNat (v : Word) (k : Nat) : (byteOf v k).toNat = v.toNat / 2 ^ (8 * k) % 256 := by
  simp [byteOf, BitVec.extractLsb'_toNat, Nat.shiftRight_eq_div_pow]

/-- The four bytes of a word, put together again, are the word. -/
theorem wordOf_byteOf (v : Word) : wordOf (byteOf v 0) (byteOf v 1) (byteOf v 2) (byteOf v 3) = v := by
  apply BitVec.eq_of_toNat_eq
  have h := v.isLt
  simp only [wordOf_toNat, byteOf_toNat]
  omega

/-- The bytes of four bytes put together. -/
theorem byteOf_wordOf (b0 b1 b2 b3 : Byte) :
    byteOf (wordOf b0 b1 b2 b3) 0 = b0 ∧ byteOf (wordOf b0 b1 b2 b3) 1 = b1 ∧
      byteOf (wordOf b0 b1 b2 b3) 2 = b2 ∧ byteOf (wordOf b0 b1 b2 b3) 3 = b3 := by
  have h0 := b0.isLt
  have h1 := b1.isLt
  have h2 := b2.isLt
  have h3 := b3.isLt
  refine ⟨?_, ?_, ?_, ?_⟩ <;> apply BitVec.eq_of_toNat_eq <;> rw [byteOf_toNat, wordOf_toNat] <;> omega

/-- A word whose four bytes are those of v reads as v. -/
theorem readWord_of_bytes {m : Memory} {a : Nat} {v : Word}
    (h : ∀ k, k < 4 → Memory.byte? m (4 * a + k) = some (byteOf v k)) : Memory.readWord m a = v := by
  have h0 := h 0 (by decide)
  rw [Nat.add_zero] at h0
  simp only [Memory.readWord, Memory.readByte, h0, h 1 (by decide), h 2 (by decide), h 3 (by decide),
    Option.getD_some]
  exact wordOf_byteOf v

/-- Words whose bytes agree read the same. -/
theorem readWord_congr {m m' : Memory} {a : Nat}
    (h : ∀ k, k < 4 → Memory.byte? m (4 * a + k) = Memory.byte? m' (4 * a + k)) :
    Memory.readWord m a = Memory.readWord m' a := by
  have h0 := h 0 (by decide)
  rw [Nat.add_zero] at h0
  simp only [Memory.readWord, Memory.readByte, h0, h 1 (by decide), h 2 (by decide), h 3 (by decide)]

end Sys2Proof.Machine
end

