-- ==== Sys2Proof/Laws/Lut.lean ====
section
/-! SUPPORT. Reading a built LUT, and the LUT indices as numbers. -/

namespace Sys2Proof.Machine

/-- The entry of a built LUT: an index past its size wraps. -/
theorem read_ofFn_mod (n : Nat) (f : Nat → Word) (i : Nat) : (Lut.ofFn n f).read i = f (i % 2 ^ n) := by
  induction n generalizing f i with
  | zero => simp [Lut.ofFn, Lut.read, Nat.mod_one]
  | succ n ih =>
    have e : i % 2 ^ (n + 1) = 2 * (i / 2 % 2 ^ n) + i % 2 := by
      rw [Nat.pow_succ, Nat.mul_comm, Nat.mod_mul]
      omega
    simp only [Lut.ofFn, Lut.read]
    split
    · rw [ih, e]; congr 1; omega
    · rw [ih, e]; congr 1; omega

/-- The entry of a built LUT. -/
theorem read_ofFn (n : Nat) (f : Nat → Word) (i : Nat) (h : i < 2 ^ n) : (Lut.ofFn n f).read i = f i := by
  rw [read_ofFn_mod, Nat.mod_eq_of_lt h]

/-- x shifted over y is a sum when y fits below. -/
theorem shiftLeft_or_eq (x y n : Nat) (h : y < 2 ^ n) : x <<< n ||| y = x * 2 ^ n + y := by
  rw [Nat.shiftLeft_eq, Nat.mul_comm, ← Nat.two_pow_add_eq_or_of_lt h]

/-- The red or blue index as a number. -/
theorem index5_toNat (c0 c1 : BitVec 5) (slot : BitVec 2) :
    (index5 c0 c1 slot).toNat = c0.toNat * 128 + c1.toNat * 4 + slot.toNat := by
  have h0 := c0.isLt
  have h1 := c1.isLt
  have h2 := slot.isLt
  simp only [index5, BitVec.toNat_or, BitVec.toNat_shiftLeft, BitVec.toNat_setWidth]
  rw [Nat.mod_eq_of_lt (show c0.toNat < 2 ^ 12 by omega), Nat.mod_eq_of_lt (show c1.toNat < 2 ^ 12 by omega),
    Nat.mod_eq_of_lt (show slot.toNat < 2 ^ 12 by omega),
    Nat.mod_eq_of_lt (show c0.toNat <<< 5 < 2 ^ 12 by rw [Nat.shiftLeft_eq]; omega),
    shiftLeft_or_eq _ _ 5 h1,
    Nat.mod_eq_of_lt (show (c0.toNat * 2 ^ 5 + c1.toNat) <<< 2 < 2 ^ 12 by rw [Nat.shiftLeft_eq]; omega),
    shiftLeft_or_eq _ _ 2 h2]
  omega

/-- The green index as a number. -/
theorem index6_toNat (c0 c1 : BitVec 6) (slot : BitVec 2) :
    (index6 c0 c1 slot).toNat = c0.toNat * 256 + c1.toNat * 4 + slot.toNat := by
  have h0 := c0.isLt
  have h1 := c1.isLt
  have h2 := slot.isLt
  simp only [index6, BitVec.toNat_or, BitVec.toNat_shiftLeft, BitVec.toNat_setWidth]
  rw [Nat.mod_eq_of_lt (show c0.toNat < 2 ^ 14 by omega), Nat.mod_eq_of_lt (show c1.toNat < 2 ^ 14 by omega),
    Nat.mod_eq_of_lt (show slot.toNat < 2 ^ 14 by omega),
    Nat.mod_eq_of_lt (show c0.toNat <<< 6 < 2 ^ 14 by rw [Nat.shiftLeft_eq]; omega),
    shiftLeft_or_eq _ _ 6 h1,
    Nat.mod_eq_of_lt (show (c0.toNat * 2 ^ 6 + c1.toNat) <<< 2 < 2 ^ 14 by rw [Nat.shiftLeft_eq]; omega),
    shiftLeft_or_eq _ _ 2 h2]
  omega

/-- A base with slot 0 and a slot together are the full index, red and blue (41_block_decode.md R103). -/
theorem index5_or_slot (c0 c1 : BitVec 5) (slot : BitVec 2) :
    index5 c0 c1 0 ||| slot.setWidth 12 = index5 c0 c1 slot := by
  simp [index5]

/-- The same for green. -/
theorem index6_or_slot (c0 c1 : BitVec 6) (slot : BitVec 2) :
    index6 c0 c1 0 ||| slot.setWidth 14 = index6 c0 c1 slot := by
  simp [index6]

/-- An entry of ALUT. -/
theorem read_buildAlut (sh : Shifts) (a : BitVec 4) : (buildAlut sh).read a.toNat = lane sh.a (alphaRamp a) := by
  rw [buildAlut, read_ofFn _ _ _ a.isLt, BitVec.ofNat_toNat, BitVec.setWidth_eq]

/-- An entry of a red or blue LUT. -/
theorem read_buildLut5 (p : Params) (sh : Shift) (c0 c1 : BitVec 5) (slot : BitVec 2) :
    (buildLut5 p sh).read (index5 c0 c1 slot).toNat = lane sh (palette5 p c0 c1 slot) := by
  have h0 := c0.isLt
  have h1 := c1.isLt
  have h2 := slot.isLt
  rw [buildLut5, read_ofFn _ _ _ (index5 c0 c1 slot).isLt, index5_toNat]
  have e0 : BitVec.ofNat 5 ((c0.toNat * 128 + c1.toNat * 4 + slot.toNat) / 128) = c0 :=
    BitVec.eq_of_toNat_eq (by rw [BitVec.toNat_ofNat]; omega)
  have e1 : BitVec.ofNat 5 ((c0.toNat * 128 + c1.toNat * 4 + slot.toNat) / 4) = c1 :=
    BitVec.eq_of_toNat_eq (by rw [BitVec.toNat_ofNat]; omega)
  have e2 : BitVec.ofNat 2 (c0.toNat * 128 + c1.toNat * 4 + slot.toNat) = slot :=
    BitVec.eq_of_toNat_eq (by rw [BitVec.toNat_ofNat]; omega)
  rw [e0, e1, e2]

/-- An entry of the green LUT. -/
theorem read_buildLut6 (p : Params) (sh : Shift) (c0 c1 : BitVec 6) (slot : BitVec 2) :
    (buildLut6 p sh).read (index6 c0 c1 slot).toNat = lane sh (palette6 p c0 c1 slot) := by
  have h0 := c0.isLt
  have h1 := c1.isLt
  have h2 := slot.isLt
  rw [buildLut6, read_ofFn _ _ _ (index6 c0 c1 slot).isLt, index6_toNat]
  have e0 : BitVec.ofNat 6 ((c0.toNat * 256 + c1.toNat * 4 + slot.toNat) / 256) = c0 :=
    BitVec.eq_of_toNat_eq (by rw [BitVec.toNat_ofNat]; omega)
  have e1 : BitVec.ofNat 6 ((c0.toNat * 256 + c1.toNat * 4 + slot.toNat) / 4) = c1 :=
    BitVec.eq_of_toNat_eq (by rw [BitVec.toNat_ofNat]; omega)
  have e2 : BitVec.ofNat 2 (c0.toNat * 256 + c1.toNat * 4 + slot.toNat) = slot :=
    BitVec.eq_of_toNat_eq (by rw [BitVec.toNat_ofNat]; omega)
  rw [e0, e1, e2]

/-- A lane as a number. -/
theorem lane_toNat (sh : Shift) (v : Byte) : (lane sh v).toNat = v.toNat * 2 ^ sh.bits := by
  have h := v.isLt
  cases sh <;> simp only [lane, Shift.bits, BitVec.toNat_shiftLeft, BitVec.toNat_setWidth, Nat.shiftLeft_eq] <;> omega

/-- Four lanes or-ed together are the word of the four bytes, in the order the format's name spells
(20_memory.md R42; 40_format_and_lut.md R95). -/
theorem lanes_eq_wordOf (f : PixelFormat) (a r g b : Byte) :
    lane f.shifts.a a ||| lane f.shifts.r r ||| lane f.shifts.g g ||| lane f.shifts.b b =
      match f with
      | .bgra => wordOf b g r a
      | .rgba => wordOf r g b a
      | .argb => wordOf a r g b
      | .abgr => wordOf a b g r := by
  cases f <;> apply BitVec.eq_of_getLsbD_eq <;> intro j hj <;>
    simp only [lane, wordOf, PixelFormat.shifts, Shift.bits, BitVec.getLsbD_or, BitVec.getLsbD_shiftLeft,
      BitVec.getLsbD_setWidth, BitVec.getLsbD_append] <;>
    interval_cases j <;> simp

end Sys2Proof.Machine
end

