-- ==== Sys2Proof/Laws/State.lean ====
section
/-! SUPPORT. One lemma per field per named update of State, so that no later proof unfolds a record update. -/

namespace Sys2Proof.Machine

variable (s : State)

/-! ## State.raise -/

@[simp] theorem State.raise_blk0 (c : ErrCode) : (s.raise c).blk0 = s.blk0 := rfl
@[simp] theorem State.raise_blk1 (c : ErrCode) : (s.raise c).blk1 = s.blk1 := rfl
@[simp] theorem State.raise_blk2 (c : ErrCode) : (s.raise c).blk2 = s.blk2 := rfl
@[simp] theorem State.raise_blk3 (c : ErrCode) : (s.raise c).blk3 = s.blk3 := rfl
@[simp] theorem State.raise_dst (c : ErrCode) : (s.raise c).dst = s.dst := rfl
@[simp] theorem State.raise_stride (c : ErrCode) : (s.raise c).stride = s.stride := rfl
@[simp] theorem State.raise_err (c : ErrCode) : (s.raise c).err = s.err.record c := rfl
@[simp] theorem State.raise_format (c : ErrCode) : (s.raise c).format = s.format := rfl
@[simp] theorem State.raise_shifts (c : ErrCode) : (s.raise c).shifts = s.shifts := rfl
@[simp] theorem State.raise_lutValid (c : ErrCode) : (s.raise c).lutValid = s.lutValid := rfl
@[simp] theorem State.raise_alut (c : ErrCode) : (s.raise c).alut = s.alut := rfl
@[simp] theorem State.raise_rlut (c : ErrCode) : (s.raise c).rlut = s.rlut := rfl
@[simp] theorem State.raise_glut (c : ErrCode) : (s.raise c).glut = s.glut := rfl
@[simp] theorem State.raise_blut (c : ErrCode) : (s.raise c).blut = s.blut := rfl
@[simp] theorem State.raise_outmem (c : ErrCode) : (s.raise c).outmem = s.outmem := rfl
@[simp] theorem State.raise_script (c : ErrCode) : (s.raise c).script = s.script := rfl
@[simp] theorem State.raise_reads (c : ErrCode) : (s.raise c).reads = s.reads := rfl
@[simp] theorem State.raise_draws (c : ErrCode) : (s.raise c).draws = s.draws := rfl
@[simp] theorem State.raise_params (c : ErrCode) : (s.raise c).params = s.params := rfl

/-! ## State.clearError -/

@[simp] theorem State.clearError_blk0 : (s.clearError).blk0 = s.blk0 := rfl
@[simp] theorem State.clearError_blk1 : (s.clearError).blk1 = s.blk1 := rfl
@[simp] theorem State.clearError_blk2 : (s.clearError).blk2 = s.blk2 := rfl
@[simp] theorem State.clearError_blk3 : (s.clearError).blk3 = s.blk3 := rfl
@[simp] theorem State.clearError_dst : (s.clearError).dst = s.dst := rfl
@[simp] theorem State.clearError_stride : (s.clearError).stride = s.stride := rfl
@[simp] theorem State.clearError_err : (s.clearError).err = .none := rfl
@[simp] theorem State.clearError_format : (s.clearError).format = s.format := rfl
@[simp] theorem State.clearError_shifts : (s.clearError).shifts = s.shifts := rfl
@[simp] theorem State.clearError_lutValid : (s.clearError).lutValid = s.lutValid := rfl
@[simp] theorem State.clearError_alut : (s.clearError).alut = s.alut := rfl
@[simp] theorem State.clearError_rlut : (s.clearError).rlut = s.rlut := rfl
@[simp] theorem State.clearError_glut : (s.clearError).glut = s.glut := rfl
@[simp] theorem State.clearError_blut : (s.clearError).blut = s.blut := rfl
@[simp] theorem State.clearError_outmem : (s.clearError).outmem = s.outmem := rfl
@[simp] theorem State.clearError_script : (s.clearError).script = s.script := rfl
@[simp] theorem State.clearError_reads : (s.clearError).reads = s.reads := rfl
@[simp] theorem State.clearError_draws : (s.clearError).draws = s.draws := rfl
@[simp] theorem State.clearError_params : (s.clearError).params = s.params := rfl

/-! ## State.outWrites -/

@[simp] theorem State.outWrites_blk0 (ws : List (Nat × Word)) : (s.outWrites ws).blk0 = s.blk0 := rfl
@[simp] theorem State.outWrites_blk1 (ws : List (Nat × Word)) : (s.outWrites ws).blk1 = s.blk1 := rfl
@[simp] theorem State.outWrites_blk2 (ws : List (Nat × Word)) : (s.outWrites ws).blk2 = s.blk2 := rfl
@[simp] theorem State.outWrites_blk3 (ws : List (Nat × Word)) : (s.outWrites ws).blk3 = s.blk3 := rfl
@[simp] theorem State.outWrites_dst (ws : List (Nat × Word)) : (s.outWrites ws).dst = s.dst := rfl
@[simp] theorem State.outWrites_stride (ws : List (Nat × Word)) : (s.outWrites ws).stride = s.stride := rfl
@[simp] theorem State.outWrites_err (ws : List (Nat × Word)) : (s.outWrites ws).err = s.err := rfl
@[simp] theorem State.outWrites_format (ws : List (Nat × Word)) : (s.outWrites ws).format = s.format := rfl
@[simp] theorem State.outWrites_shifts (ws : List (Nat × Word)) : (s.outWrites ws).shifts = s.shifts := rfl
@[simp] theorem State.outWrites_lutValid (ws : List (Nat × Word)) : (s.outWrites ws).lutValid = s.lutValid := rfl
@[simp] theorem State.outWrites_alut (ws : List (Nat × Word)) : (s.outWrites ws).alut = s.alut := rfl
@[simp] theorem State.outWrites_rlut (ws : List (Nat × Word)) : (s.outWrites ws).rlut = s.rlut := rfl
@[simp] theorem State.outWrites_glut (ws : List (Nat × Word)) : (s.outWrites ws).glut = s.glut := rfl
@[simp] theorem State.outWrites_blut (ws : List (Nat × Word)) : (s.outWrites ws).blut = s.blut := rfl
@[simp] theorem State.outWrites_outmem (ws : List (Nat × Word)) : (s.outWrites ws).outmem = Memory.writeWords s.outmem ws := rfl
@[simp] theorem State.outWrites_script (ws : List (Nat × Word)) : (s.outWrites ws).script = s.script := rfl
@[simp] theorem State.outWrites_reads (ws : List (Nat × Word)) : (s.outWrites ws).reads = s.reads := rfl
@[simp] theorem State.outWrites_draws (ws : List (Nat × Word)) : (s.outWrites ws).draws = s.draws := rfl
@[simp] theorem State.outWrites_params (ws : List (Nat × Word)) : (s.outWrites ws).params = s.params := rfl

/-! ## State.loadFormat -/

@[simp] theorem State.loadFormat_blk0 (f : PixelFormat) : (s.loadFormat f).blk0 = s.blk0 := rfl
@[simp] theorem State.loadFormat_blk1 (f : PixelFormat) : (s.loadFormat f).blk1 = s.blk1 := rfl
@[simp] theorem State.loadFormat_blk2 (f : PixelFormat) : (s.loadFormat f).blk2 = s.blk2 := rfl
@[simp] theorem State.loadFormat_blk3 (f : PixelFormat) : (s.loadFormat f).blk3 = s.blk3 := rfl
@[simp] theorem State.loadFormat_dst (f : PixelFormat) : (s.loadFormat f).dst = s.dst := rfl
@[simp] theorem State.loadFormat_stride (f : PixelFormat) : (s.loadFormat f).stride = s.stride := rfl
@[simp] theorem State.loadFormat_err (f : PixelFormat) : (s.loadFormat f).err = s.err := rfl
@[simp] theorem State.loadFormat_format (f : PixelFormat) : (s.loadFormat f).format = f := rfl
@[simp] theorem State.loadFormat_shifts (f : PixelFormat) : (s.loadFormat f).shifts = f.shifts := rfl
@[simp] theorem State.loadFormat_lutValid (f : PixelFormat) : (s.loadFormat f).lutValid = s.lutValid := rfl
@[simp] theorem State.loadFormat_alut (f : PixelFormat) : (s.loadFormat f).alut = s.alut := rfl
@[simp] theorem State.loadFormat_rlut (f : PixelFormat) : (s.loadFormat f).rlut = s.rlut := rfl
@[simp] theorem State.loadFormat_glut (f : PixelFormat) : (s.loadFormat f).glut = s.glut := rfl
@[simp] theorem State.loadFormat_blut (f : PixelFormat) : (s.loadFormat f).blut = s.blut := rfl
@[simp] theorem State.loadFormat_outmem (f : PixelFormat) : (s.loadFormat f).outmem = s.outmem := rfl
@[simp] theorem State.loadFormat_script (f : PixelFormat) : (s.loadFormat f).script = s.script := rfl
@[simp] theorem State.loadFormat_reads (f : PixelFormat) : (s.loadFormat f).reads = s.reads := rfl
@[simp] theorem State.loadFormat_draws (f : PixelFormat) : (s.loadFormat f).draws = s.draws := rfl
@[simp] theorem State.loadFormat_params (f : PixelFormat) : (s.loadFormat f).params = s.params := rfl

/-! ## State.rebuildLuts -/

@[simp] theorem State.rebuildLuts_blk0 : (s.rebuildLuts).blk0 = s.blk0 := rfl
@[simp] theorem State.rebuildLuts_blk1 : (s.rebuildLuts).blk1 = s.blk1 := rfl
@[simp] theorem State.rebuildLuts_blk2 : (s.rebuildLuts).blk2 = s.blk2 := rfl
@[simp] theorem State.rebuildLuts_blk3 : (s.rebuildLuts).blk3 = s.blk3 := rfl
@[simp] theorem State.rebuildLuts_dst : (s.rebuildLuts).dst = s.dst := rfl
@[simp] theorem State.rebuildLuts_stride : (s.rebuildLuts).stride = s.stride := rfl
@[simp] theorem State.rebuildLuts_err : (s.rebuildLuts).err = s.err := rfl
@[simp] theorem State.rebuildLuts_format : (s.rebuildLuts).format = s.format := rfl
@[simp] theorem State.rebuildLuts_shifts : (s.rebuildLuts).shifts = s.shifts := rfl
@[simp] theorem State.rebuildLuts_lutValid : (s.rebuildLuts).lutValid = true := rfl
@[simp] theorem State.rebuildLuts_alut : (s.rebuildLuts).alut = buildAlut s.shifts := rfl
@[simp] theorem State.rebuildLuts_rlut : (s.rebuildLuts).rlut = buildRlut s.params s.shifts := rfl
@[simp] theorem State.rebuildLuts_glut : (s.rebuildLuts).glut = buildGlut s.params s.shifts := rfl
@[simp] theorem State.rebuildLuts_blut : (s.rebuildLuts).blut = buildBlut s.params s.shifts := rfl
@[simp] theorem State.rebuildLuts_outmem : (s.rebuildLuts).outmem = s.outmem := rfl
@[simp] theorem State.rebuildLuts_script : (s.rebuildLuts).script = s.script := rfl
@[simp] theorem State.rebuildLuts_reads : (s.rebuildLuts).reads = s.reads := rfl
@[simp] theorem State.rebuildLuts_draws : (s.rebuildLuts).draws = s.draws := rfl
@[simp] theorem State.rebuildLuts_params : (s.rebuildLuts).params = s.params := rfl

/-! ## State.recordRead -/

@[simp] theorem State.recordRead_blk0 (v : Word) : (s.recordRead v).blk0 = s.blk0 := rfl
@[simp] theorem State.recordRead_blk1 (v : Word) : (s.recordRead v).blk1 = s.blk1 := rfl
@[simp] theorem State.recordRead_blk2 (v : Word) : (s.recordRead v).blk2 = s.blk2 := rfl
@[simp] theorem State.recordRead_blk3 (v : Word) : (s.recordRead v).blk3 = s.blk3 := rfl
@[simp] theorem State.recordRead_dst (v : Word) : (s.recordRead v).dst = s.dst := rfl
@[simp] theorem State.recordRead_stride (v : Word) : (s.recordRead v).stride = s.stride := rfl
@[simp] theorem State.recordRead_err (v : Word) : (s.recordRead v).err = s.err := rfl
@[simp] theorem State.recordRead_format (v : Word) : (s.recordRead v).format = s.format := rfl
@[simp] theorem State.recordRead_shifts (v : Word) : (s.recordRead v).shifts = s.shifts := rfl
@[simp] theorem State.recordRead_lutValid (v : Word) : (s.recordRead v).lutValid = s.lutValid := rfl
@[simp] theorem State.recordRead_alut (v : Word) : (s.recordRead v).alut = s.alut := rfl
@[simp] theorem State.recordRead_rlut (v : Word) : (s.recordRead v).rlut = s.rlut := rfl
@[simp] theorem State.recordRead_glut (v : Word) : (s.recordRead v).glut = s.glut := rfl
@[simp] theorem State.recordRead_blut (v : Word) : (s.recordRead v).blut = s.blut := rfl
@[simp] theorem State.recordRead_outmem (v : Word) : (s.recordRead v).outmem = s.outmem := rfl
@[simp] theorem State.recordRead_script (v : Word) : (s.recordRead v).script = s.script := rfl
@[simp] theorem State.recordRead_reads (v : Word) : (s.recordRead v).reads = v :: s.reads := rfl
@[simp] theorem State.recordRead_draws (v : Word) : (s.recordRead v).draws = s.draws := rfl
@[simp] theorem State.recordRead_params (v : Word) : (s.recordRead v).params = s.params := rfl

/-! ## State.drawn -/

@[simp] theorem State.drawn_blk0 : (s.drawn).blk0 = s.blk0 := rfl
@[simp] theorem State.drawn_blk1 : (s.drawn).blk1 = s.blk1 := rfl
@[simp] theorem State.drawn_blk2 : (s.drawn).blk2 = s.blk2 := rfl
@[simp] theorem State.drawn_blk3 : (s.drawn).blk3 = s.blk3 := rfl
@[simp] theorem State.drawn_dst : (s.drawn).dst = s.dst := rfl
@[simp] theorem State.drawn_stride : (s.drawn).stride = s.stride := rfl
@[simp] theorem State.drawn_err : (s.drawn).err = s.err := rfl
@[simp] theorem State.drawn_format : (s.drawn).format = s.format := rfl
@[simp] theorem State.drawn_shifts : (s.drawn).shifts = s.shifts := rfl
@[simp] theorem State.drawn_lutValid : (s.drawn).lutValid = s.lutValid := rfl
@[simp] theorem State.drawn_alut : (s.drawn).alut = s.alut := rfl
@[simp] theorem State.drawn_rlut : (s.drawn).rlut = s.rlut := rfl
@[simp] theorem State.drawn_glut : (s.drawn).glut = s.glut := rfl
@[simp] theorem State.drawn_blut : (s.drawn).blut = s.blut := rfl
@[simp] theorem State.drawn_outmem : (s.drawn).outmem = s.outmem := rfl
@[simp] theorem State.drawn_script : (s.drawn).script = s.script := rfl
@[simp] theorem State.drawn_reads : (s.drawn).reads = s.reads := rfl
@[simp] theorem State.drawn_draws : (s.drawn).draws = s.draws + 1 := rfl
@[simp] theorem State.drawn_params : (s.drawn).params = s.params := rfl

/-! ## State.withScript -/

@[simp] theorem State.withScript_blk0 (acts : List HostAction) : (s.withScript acts).blk0 = s.blk0 := rfl
@[simp] theorem State.withScript_blk1 (acts : List HostAction) : (s.withScript acts).blk1 = s.blk1 := rfl
@[simp] theorem State.withScript_blk2 (acts : List HostAction) : (s.withScript acts).blk2 = s.blk2 := rfl
@[simp] theorem State.withScript_blk3 (acts : List HostAction) : (s.withScript acts).blk3 = s.blk3 := rfl
@[simp] theorem State.withScript_dst (acts : List HostAction) : (s.withScript acts).dst = s.dst := rfl
@[simp] theorem State.withScript_stride (acts : List HostAction) : (s.withScript acts).stride = s.stride := rfl
@[simp] theorem State.withScript_err (acts : List HostAction) : (s.withScript acts).err = s.err := rfl
@[simp] theorem State.withScript_format (acts : List HostAction) : (s.withScript acts).format = s.format := rfl
@[simp] theorem State.withScript_shifts (acts : List HostAction) : (s.withScript acts).shifts = s.shifts := rfl
@[simp] theorem State.withScript_lutValid (acts : List HostAction) : (s.withScript acts).lutValid = s.lutValid := rfl
@[simp] theorem State.withScript_alut (acts : List HostAction) : (s.withScript acts).alut = s.alut := rfl
@[simp] theorem State.withScript_rlut (acts : List HostAction) : (s.withScript acts).rlut = s.rlut := rfl
@[simp] theorem State.withScript_glut (acts : List HostAction) : (s.withScript acts).glut = s.glut := rfl
@[simp] theorem State.withScript_blut (acts : List HostAction) : (s.withScript acts).blut = s.blut := rfl
@[simp] theorem State.withScript_outmem (acts : List HostAction) : (s.withScript acts).outmem = s.outmem := rfl
@[simp] theorem State.withScript_script (acts : List HostAction) : (s.withScript acts).script = acts := rfl
@[simp] theorem State.withScript_reads (acts : List HostAction) : (s.withScript acts).reads = s.reads := rfl
@[simp] theorem State.withScript_draws (acts : List HostAction) : (s.withScript acts).draws = s.draws := rfl
@[simp] theorem State.withScript_params (acts : List HostAction) : (s.withScript acts).params = s.params := rfl

/-! ## State.issue -/

@[simp] theorem State.issue_blk0 (act : HostAction) : (s.issue act).blk0 = s.blk0 := rfl
@[simp] theorem State.issue_blk1 (act : HostAction) : (s.issue act).blk1 = s.blk1 := rfl
@[simp] theorem State.issue_blk2 (act : HostAction) : (s.issue act).blk2 = s.blk2 := rfl
@[simp] theorem State.issue_blk3 (act : HostAction) : (s.issue act).blk3 = s.blk3 := rfl
@[simp] theorem State.issue_dst (act : HostAction) : (s.issue act).dst = s.dst := rfl
@[simp] theorem State.issue_stride (act : HostAction) : (s.issue act).stride = s.stride := rfl
@[simp] theorem State.issue_err (act : HostAction) : (s.issue act).err = s.err := rfl
@[simp] theorem State.issue_format (act : HostAction) : (s.issue act).format = s.format := rfl
@[simp] theorem State.issue_shifts (act : HostAction) : (s.issue act).shifts = s.shifts := rfl
@[simp] theorem State.issue_lutValid (act : HostAction) : (s.issue act).lutValid = s.lutValid := rfl
@[simp] theorem State.issue_alut (act : HostAction) : (s.issue act).alut = s.alut := rfl
@[simp] theorem State.issue_rlut (act : HostAction) : (s.issue act).rlut = s.rlut := rfl
@[simp] theorem State.issue_glut (act : HostAction) : (s.issue act).glut = s.glut := rfl
@[simp] theorem State.issue_blut (act : HostAction) : (s.issue act).blut = s.blut := rfl
@[simp] theorem State.issue_outmem (act : HostAction) : (s.issue act).outmem = s.outmem := rfl
@[simp] theorem State.issue_script (act : HostAction) : (s.issue act).script = act :: s.script := rfl
@[simp] theorem State.issue_reads (act : HostAction) : (s.issue act).reads = s.reads := rfl
@[simp] theorem State.issue_draws (act : HostAction) : (s.issue act).draws = s.draws := rfl
@[simp] theorem State.issue_params (act : HostAction) : (s.issue act).params = s.params := rfl

/-! ## State.assertReset -/

@[simp] theorem State.assertReset_blk0 : (s.assertReset).blk0 = 0 := rfl
@[simp] theorem State.assertReset_blk1 : (s.assertReset).blk1 = 0 := rfl
@[simp] theorem State.assertReset_blk2 : (s.assertReset).blk2 = 0 := rfl
@[simp] theorem State.assertReset_blk3 : (s.assertReset).blk3 = 0 := rfl
@[simp] theorem State.assertReset_dst : (s.assertReset).dst = 0 := rfl
@[simp] theorem State.assertReset_stride : (s.assertReset).stride = 0 := rfl
@[simp] theorem State.assertReset_err : (s.assertReset).err = .none := rfl
@[simp] theorem State.assertReset_format : (s.assertReset).format = .bgra := rfl
@[simp] theorem State.assertReset_shifts : (s.assertReset).shifts = PixelFormat.bgra.shifts := rfl
@[simp] theorem State.assertReset_lutValid : (s.assertReset).lutValid = false := rfl
@[simp] theorem State.assertReset_alut : (s.assertReset).alut = s.alut := rfl
@[simp] theorem State.assertReset_rlut : (s.assertReset).rlut = s.rlut := rfl
@[simp] theorem State.assertReset_glut : (s.assertReset).glut = s.glut := rfl
@[simp] theorem State.assertReset_blut : (s.assertReset).blut = s.blut := rfl
@[simp] theorem State.assertReset_outmem : (s.assertReset).outmem = s.outmem := rfl
@[simp] theorem State.assertReset_script : (s.assertReset).script = s.script := rfl
@[simp] theorem State.assertReset_reads : (s.assertReset).reads = s.reads := rfl
@[simp] theorem State.assertReset_draws : (s.assertReset).draws = s.draws := rfl
@[simp] theorem State.assertReset_params : (s.assertReset).params = s.params := rfl

end Sys2Proof.Machine
end

