-- ==== Sys2Proof/Laws/Ops.lean ====
section
/-! SUPPORT. One lemma per shared operation that says everything it can do: recording an error, the clip and its
addresses, the body of SET_FORMAT, the register map, a command, a register write. -/

namespace Sys2Proof.Machine

/-- Recording an error when none is held. -/
@[simp] theorem record_none (c : ErrCode) : ErrCode.record .none c = c := rfl

/-- Recording an error keeps the one that is held (60_exceptions.md R161). -/
theorem record_eq (held new : ErrCode) : held.record new = if held = .none then new else held := by
  cases held <;> rfl

/-- A texel of the clip (41_block_decode.md R107). -/
theorem mem_clipTexels {vw vh i : Nat} : i ∈ clipTexels vw vh ↔ i < 16 ∧ i / 4 < vh ∧ i % 4 < vw := by
  simp only [clipTexels, inClip, List.mem_filter, List.mem_range, Bool.and_eq_true, decide_eq_true_eq]
  rfl

/-- The texels of the clip ascend (20_memory.md R52). -/
theorem clipTexels_sorted (vw vh : Nat) : (clipTexels vw vh).Pairwise (· < ·) :=
  List.Pairwise.filter _ (List.pairwise_lt_range (n := 16))

/-- No texel of the clip is past its last address (41_block_decode.md R108). -/
theorem texelAddress_le {s : State} {vw vh i : Nat} (h : i ∈ clipTexels vw vh) :
    s.texelAddress i ≤ s.lastAddress vw vh := by
  obtain ⟨-, hr, hc⟩ := mem_clipTexels.1 h
  have hm : i / 4 * s.stride.toNat ≤ (vh - 1) * s.stride.toNat := Nat.mul_le_mul_right _ (by omega)
  simp only [State.texelAddress, State.lastAddress, texelRow, texelCol]
  omega

/-- The OutWrites of a command are in range (20_memory.md R43). -/
theorem commandWrites_inRange {s : State} {i : Instr} {w : Nat × Word} (h : w ∈ s.commandWrites i) :
    w.1 < s.params.outWords := by
  cases i with
  | nop => cases h
  | setFormat f => cases h
  | clearErr => cases h
  | decodeBlock vw vh =>
    simp only [State.commandWrites] at h
    split at h
    · rename_i hb
      simp only [State.texelWrites, List.mem_map] at h
      obtain ⟨i, hi, rfl⟩ := h
      have hin := hb.2
      simp only [State.inBounds, decide_eq_true_eq] at hin
      exact Nat.lt_of_le_of_lt (texelAddress_le hi) hin
    · cases h

/-- The OutWrites of a CMD write that have happened by some moment are in range. -/
theorem partialWrites_inRange {s : State} {w : Word} {c : Nat × Word} (h : c ∈ s.partialWrites w) :
    c.1 < s.params.outWords := by
  have hm := List.mem_of_mem_take h
  unfold State.wordWrites at hm
  split at hm
  · exact commandWrites_inRange hm
  · cases hm

/-- The body of SET_FORMAT leaves the state or loads the format and rebuilds (40_format_and_lut.md R82). -/
theorem selectFormat_cases (s : State) (f : PixelFormat) :
    (s.selectFormat f = s ∧ s.lutValid = true ∧ s.format = f) ∨ s.selectFormat f = (s.loadFormat f).rebuildLuts := by
  unfold State.selectFormat
  split
  · exact .inr rfl
  · rename_i h
    push Not at h
    exact .inl ⟨rfl, by simpa using h.1, h.2.symm⟩

/-- Everything a command can do (30_encoding.md R67, 60_exceptions.md R163): nothing, CLEAR_ERR, the body of
SET_FORMAT, the writes of a DECODE_BLOCK in range, or BOUNDS. -/
theorem exec_cases (i : Instr) (s : State) :
    exec i s = .next s ∨
    (i = .clearErr ∧ exec i s = .next s.clearError) ∨
    (∃ f, i = .setFormat f ∧ s.err = .none ∧ exec i s = .next (s.selectFormat (resolveFormat f))) ∨
    (∃ vw vh, i = .decodeBlock vw vh ∧ s.err = .none ∧ s.inBounds vw vh = true ∧
      exec i s = .next (s.outWrites (s.texelWrites vw vh))) ∨
    (∃ vw vh, i = .decodeBlock vw vh ∧ s.err = .none ∧ s.inBounds vw vh = false ∧
      exec i s = .next (s.raise .bounds)) := by
  cases i with
  | nop => exact .inl rfl
  | clearErr => exact .inr (.inl ⟨rfl, rfl⟩)
  | setFormat f =>
    by_cases he : s.err = .none
    · exact .inr (.inr (.inl ⟨f, rfl, he, by simp [exec, execSetFormat, he]⟩))
    · exact .inl (by simp [exec, execSetFormat, he])
  | decodeBlock vw vh =>
    by_cases he : s.err = .none
    · cases hb : s.inBounds vw vh with
      | true =>
        exact .inr (.inr (.inr (.inl ⟨vw, vh, rfl, he, hb, by simp [exec, execDecodeBlock, State.decodeBlock, he, hb]⟩)))
      | false =>
        exact .inr (.inr (.inr (.inr ⟨vw, vh, rfl, he, hb, by simp [exec, execDecodeBlock, State.decodeBlock, he, hb]⟩)))
    · exact .inl (by simp [exec, execDecodeBlock, he])

/-- Everything a CMD write can do (30_encoding.md R67). -/
theorem writeCmd_cases (w : Word) (s : State) :
    (∃ i, decode w = .ok i ∧ writeCmd w s = exec i s) ∨
    ((∃ r, decode w = .error r) ∧ writeCmd w s = .next (s.raise .illegalCmd)) := by
  cases h : decode w with
  | ok i => exact .inl ⟨i, rfl, by simp [writeCmd, h]⟩
  | error r => exact .inr ⟨⟨r, rfl⟩, by simp [writeCmd, h]⟩

/-- A CMD write always answers a next state (70_reset_and_hazards.md R189). -/
theorem writeCmd_next (w : Word) (s : State) : ∃ t, writeCmd w s = .next t := by
  rcases writeCmd_cases w s with ⟨i, -, h⟩ | ⟨-, h⟩
  · rcases exec_cases i s with e | ⟨-, e⟩ | ⟨f, -, -, e⟩ | ⟨vw, vh, -, -, -, e⟩ | ⟨vw, vh, -, -, -, e⟩ <;>
      exact ⟨_, h.trans e⟩
  · exact ⟨_, h⟩

/-- A CMD write makes the OutWrites of its word on OUTMEM and no others (41_block_decode.md R110). -/
theorem writeCmd_outmem {s t : State} {w : Word} (h : writeCmd w s = .next t) :
    t.outmem = Memory.writeWords s.outmem (s.wordWrites w) := by
  rcases writeCmd_cases w s with ⟨i, hd, e⟩ | ⟨⟨r, hr⟩, e⟩ <;> rw [e] at h
  · simp only [State.wordWrites, hd]
    cases i with
    | nop => cases h; rfl
    | clearErr => cases h; rfl
    | setFormat f =>
      rcases exec_cases (.setFormat f) s with e | ⟨hi, -⟩ | ⟨g, -, -, e⟩ | ⟨_, _, hi, -⟩ | ⟨_, _, hi, -⟩
      · rw [e] at h; cases h; rfl
      · cases hi
      · rw [e] at h; cases h
        rcases selectFormat_cases s (resolveFormat g) with ⟨e, -, -⟩ | e <;> rw [e] <;> rfl
      · cases hi
      · cases hi
    | decodeBlock vw vh =>
      simp only [exec, execDecodeBlock, State.decodeBlock] at h
      by_cases he : s.err = .none <;> cases hb : s.inBounds vw vh <;>
        simp only [he, hb, if_true, if_false, reduceCtorEq] at h <;> cases h <;>
        simp [State.commandWrites, he, hb]
  · cases h
    simp [State.wordWrites, hr]

/-- The OutWrites of a CMD write are the texels of a DECODE_BLOCK in range (41_block_decode.md R107, R110). -/
theorem mem_wordWrites {s : State} {w : Word} {c : Nat × Word} :
    c ∈ s.wordWrites w ↔ ∃ vw vh i, decode w = .ok (.decodeBlock vw vh) ∧ s.err = .none ∧ s.inBounds vw vh = true ∧
      i ∈ clipTexels vw vh ∧ c = (s.texelAddress i, s.pixel i) := by
  unfold State.wordWrites
  cases hd : decode w with
  | error r => simp
  | ok j =>
    cases j with
    | nop => simp [State.commandWrites]
    | setFormat f => simp [State.commandWrites]
    | clearErr => simp [State.commandWrites]
    | decodeBlock vw vh =>
      simp only [State.commandWrites]
      split
      · rename_i hb
        simp only [State.texelWrites, List.mem_map]
        constructor
        · rintro ⟨i, hi, rfl⟩; exact ⟨vw, vh, i, rfl, hb.1, hb.2, hi, rfl⟩
        · rintro ⟨vw', vh', i, he, -, -, hi, rfl⟩; cases he; exact ⟨i, hi, rfl⟩
      · rename_i hb
        simp only [List.not_mem_nil, false_iff]
        rintro ⟨vw', vh', i, he, h1, h2, -⟩
        cases he
        exact hb ⟨h1, h2⟩

/-- The full access to a register reaches it (10_state.md R21). -/
@[simp] theorem reg?_access (r : Reg) : r.access.reg? = some r := by cases r <;> rfl

/-- The register an access reaches is the one at its offset, by a full access. -/
theorem reg?_eq_some {acc : Access} {r : Reg} (h : acc.reg? = some r) : acc = r.access := by
  obtain ⟨o, n⟩ := acc
  unfold Access.reg? at h
  split at h
  · cases h
  rename_i hn
  obtain rfl : n = 4 := by simpa using hn
  dsimp only at h
  repeat
    split at h
    · cases h; subst_vars; rfl
  cases h

/-- Everything a register write can do (43_control.md R153). -/
theorem writeReg_cases (acc : Access) (v : Word) (s : State) :
    (acc = Reg.cmd.access ∧ writeReg acc v s = writeCmd v s) ∨
    (acc = Reg.blk0.access ∧ writeReg acc v s = .next { s with blk0 := v }) ∨
    (acc = Reg.blk1.access ∧ writeReg acc v s = .next { s with blk1 := v }) ∨
    (acc = Reg.blk2.access ∧ writeReg acc v s = .next { s with blk2 := v }) ∨
    (acc = Reg.blk3.access ∧ writeReg acc v s = .next { s with blk3 := v }) ∨
    (acc = Reg.dst.access ∧ writeReg acc v s = .next { s with dst := v }) ∨
    (acc = Reg.stride.access ∧ writeReg acc v s = .next { s with stride := v }) ∨
    ((acc.reg? = some .status ∨ acc.reg? = none) ∧ writeReg acc v s = .next (s.raise .badAccess)) := by
  cases h : acc.reg? with
  | none => simp [writeReg, h]
  | some r =>
    have ha := reg?_eq_some h
    cases r <;> simp [writeReg, ha]

end Sys2Proof.Machine
end

