-- ==== Sys2Proof/Laws/PerInstr.lean ====
section
/-! SUPPORT. Families of facts stated per command: EncodeFitsRow, the encoding of a well-formed command fits a row of
the opcode map, so that no reserved bit of it is set (30_encoding.md R61, R65). -/

namespace Sys2Proof.Laws.EncodeFitsRow

/-- The encoding of the command fits a row of the opcode map. -/
def Statement (i : Instr) : Prop := i.wf = true → ∃ r ∈ opcodeTable, r.hits (encode i) = true

theorem nop : Statement .nop := fun _ => by decide

theorem setFormat (fmtsel : BitVec 8) : Statement (.setFormat fmtsel) := fun _ => by
  revert fmtsel
  decide +kernel

theorem decodeBlock (vw vh : Nat) : Statement (.decodeBlock vw vh) := fun h => by
  simp only [Instr.wf, clipCountOk, Bool.and_eq_true, decide_eq_true_eq] at h
  obtain ⟨⟨h1, h2⟩, h3, h4⟩ := h
  interval_cases vw <;> interval_cases vh <;> decide

theorem clearErr : Statement .clearErr := fun _ => by decide

end Sys2Proof.Laws.EncodeFitsRow
end

