-- ==== Sys2Proof/Laws/Step.lean ====
section
/-! SUPPORT. What one step can do, said once; what a step does with each kind of host action; and the parts of a
legal state that each operation keeps. -/

namespace Sys2Proof.Machine

/-- While a reset build is pending the step is the build (70_reset_and_hazards.md R183). -/
theorem step_build {s : State} (h : s.lutValid = false) : step s = .next s.rebuildLuts := by
  simp [step, advance, h]

/-- With nothing left in the script the host makes no access. -/
theorem step_idle {s : State} (h : s.lutValid = true) (hs : s.script = []) : step s = .next s := by
  simp [step, advance, h, runScript, hs]

/-- Otherwise the step performs the script's first action. -/
theorem step_perform {s : State} {act : HostAction} {rest : List HostAction} (h : s.lutValid = true)
    (hs : s.script = act :: rest) : step s = perform act (s.withScript rest) := by
  simp [step, advance, h, runScript, hs]

/-- A CMD write in the script runs the decoded command (30_encoding.md R67). -/
theorem step_cmd {s : State} {w : Word} {rest : List HostAction} (h : s.lutValid = true)
    (hs : s.script = .write Reg.cmd.access w :: rest) : step s = writeCmd w (s.withScript rest) := by
  rw [step_perform h hs]
  rfl

/-- Everything one step can be: the reset build, idling, or the script's first action. -/
theorem step_cases (s : State) :
    (s.lutValid = false ∧ step s = .next s.rebuildLuts) ∨
    (s.lutValid = true ∧ s.script = [] ∧ step s = .next s) ∨
    (∃ act rest, s.lutValid = true ∧ s.script = act :: rest ∧ step s = perform act (s.withScript rest)) := by
  rcases Bool.eq_false_or_eq_true s.lutValid with h | h
  · rcases hs : s.script with _ | ⟨act, rest⟩
    · exact .inr (.inl ⟨h, rfl, step_idle h hs⟩)
    · exact .inr (.inr ⟨act, rest, h, rfl, step_perform h hs⟩)
  · exact .inl ⟨h, step_build h⟩

/-- What a racing read leaves: the command's own next state, with one value recorded. -/
theorem readOutDuring_eq {w : Word} {a : Nat} {s : State} (h : a < s.params.outWords) :
    ∃ t, writeCmd w s.drawn = .next t ∧ readOutDuring w a s = .next (t.recordRead (s.racingWord w a)) := by
  obtain ⟨t, ht⟩ := writeCmd_next w s.drawn
  exact ⟨t, ht, by simp [readOutDuring, State.hasOutWord, h, ht]⟩

end Sys2Proof.Machine
end

