-- ==== Sys2Proof/Laws/Run.lean ====
section
/-! SUPPORT. Running the machine for a number of steps: one step more, and two runs in a row. -/

namespace Sys2Proof.Machine

/-- No step. -/
theorem run_zero (s : State) : Host.Core.run Sys2Proof.core 0 s = .next s := rfl

/-- One step, then the rest of the run. -/
theorem run_succ {s t : State} (h : step s = .next t) (n : Nat) :
    Host.Core.run Sys2Proof.core (n + 1) s = Host.Core.run Sys2Proof.core n t := by
  have hs : Sys2Proof.core.step s = .next t := h
  simp only [Host.Core.run, hs]

/-- Two runs in a row. -/
theorem run_add {s t : State} {m : Nat} (h : Host.Core.run Sys2Proof.core m s = .next t) (n : Nat) :
    Host.Core.run Sys2Proof.core (m + n) s = Host.Core.run Sys2Proof.core n t := by
  induction m generalizing s with
  | zero =>
    rw [run_zero] at h
    cases h
    rw [Nat.zero_add]
  | succ m ih =>
    rw [Nat.succ_add]
    cases hs : step s with
    | next u =>
      rw [run_succ hs] at h ⊢
      exact ih h
    | fault r =>
      have hs : Sys2Proof.core.step s = .fault r := hs
      simp only [Host.Core.run, hs] at h
      cases h
    | refused r =>
      have hs : Sys2Proof.core.step s = .refused r := hs
      simp only [Host.Core.run, hs] at h
      cases h

end Sys2Proof.Machine
end

