-- ==== Sys2Proof/Tests/Slice0.lean ====
section
/-! SUPPORT. The model's own tests: the well-formedness smoke, command words written out from 30_encoding.md R61, one
step of each command against the worked examples and vectors of 95_test_vectors.md, and for every statement a witness
that its hypotheses can be met. -/

open Sys2Proof Sys2Proof.Machine Sys2Proof.Claims

namespace Sys2Proof.Tests

/-- The state after reset with 16 output words. -/
def small : State := State.resetWith (Params.withOutWords 16) []

/-- small with the block B_GRAD of 95_test_vectors.md loaded, and a destination and stride. -/
def grad (d st : Word) : State :=
  { small with blk0 := 0x76543210, blk1 := 0xFEDCBA98, blk2 := 0x001FF800, blk3 := 0xE4E4E4E4, dst := d, stride := st }

/-- The outcome is a next state that passes the check. -/
def nextIs (o : Host.Outcome State Fault Refusal) (check : State → Bool) : Bool :=
  match o with
  | .next t => check t
  | .fault _ => false
  | .refused _ => false

/-- The next step of s when the host writes w to CMD. -/
def cmd (s : State) (w : Word) : Host.Outcome State Fault Refusal := step (s.issue (.write Reg.cmd.access w))

/-! ## Well-formedness smoke: every check refuses an ill-formed term -/

theorem test_wf_refuses_width_zero : (Instr.decodeBlock 0 1).wf = false := by decide
theorem test_wf_refuses_width_five : (Instr.decodeBlock 5 1).wf = false := by decide
theorem test_wf_refuses_height_zero : (Instr.decodeBlock 1 0).wf = false := by decide
theorem test_wf_refuses_height_five : (Instr.decodeBlock 1 5).wf = false := by decide

/-! ## Command words written out bit by bit (30_encoding.md R61) -/

theorem test_decode_nop : decode 0b0000_0000_0000_0000_0000_0000_0000_0000 = .ok .nop := by decide
theorem test_decode_setFormat : decode 0b0000_0000_0000_0000_1000_0011_0000_0001 = .ok (.setFormat 0x83) := by decide
theorem test_decode_decodeBlock : decode 0b0000_0000_0000_0000_0000_1001_0000_0010 = .ok (.decodeBlock 2 3) := by decide
theorem test_decode_clearErr : decode 0b0000_0000_0000_0000_0000_0000_0000_0011 = .ok .clearErr := by decide
theorem test_decode_refuses_reserved_bit :
    decode 0b0000_0000_0000_0000_0000_0000_0001_0010 = .error (.reservedBits 2) := by decide
theorem test_decode_refuses_reserved_opcode :
    decode 0b1000_0000_0000_0000_0000_0000_0000_0100 = .error (.reservedOpcode 4) := by decide
theorem test_decodeTableWord : decodeTableWord 32 0x00000F02 = some (.decodeBlock 4 4) := by decide

/-! ## One step of each command -/

/-- R150: NOP leaves a pending error. -/
theorem test_nop_keeps_error : nextIs (cmd { small with err := .bounds } 0x00000000)
    (fun t => t.statusWord == 0x00000020) = true := by decide +kernel

/-- The first command after reset, placed by withFetchWord: R82's worked example. -/
theorem test_setFormat_rgba : nextIs (step (State.reset.withFetchWord 32 0x00000101))
    (fun t => t.statusWord == 0x00000001 && t.alut.read 15 == 0xFF000000 && t.rlut.read 0xF80 == 0x000000FF) =
      true := by decide +kernel

/-- L2-2, L2-4: FMTSEL 255 after ARGB selects BGRA, and the green entry 0x3F02 follows. -/
theorem test_setFormat_fallback :
    nextIs (cmd ({ small with format := .argb, shifts := PixelFormat.argb.shifts } : State).rebuildLuts 0x0000FF01)
      (fun t => t.statusWord == 0x00000000 && t.glut.read 0x3F02 == 0x0000AA00) = true := by decide +kernel

/-- L2-6 V7: STRIDE 2 below VW 4, the higher texel wins at addresses 2 and 3. -/
theorem test_decodeBlock_overlap : nextIs (cmd (grad 0 2) 0x00000702)
    (fun t => (List.range 6).map (Memory.readWord t.outmem) ==
      [0x00FF0000, 0x110000FF, 0x44FF0000, 0x550000FF, 0x66AA0055, 0x775500AA] && t.outmem.length == 24) =
      true := by decide +kernel

/-- L2-6 V13: an address past 2^32 is BOUNDS, not a wrapped write. -/
theorem test_decodeBlock_no_wrap :
    nextIs (cmd { grad 0xFFFFFFFF 4 with params := Params.withOutWords (2 ^ 32) } 0x00000102)
      (fun t => t.statusWord == 0x00000020 && t.outmem == []) = true := by decide +kernel

/-- R151's worked example: CLEAR_ERR after BOUNDS. -/
theorem test_clearErr : nextIs (cmd { small with err := .bounds } 0x00000003)
    (fun t => t.statusWord == 0x00000000) = true := by decide +kernel

/-- L2-7: an 8-bit write to DST is BAD_ACCESS and leaves DST. -/
theorem test_partial_write : nextIs (step (small.issue (.write { offset := 0x18, size := 1 } 5)))
    (fun t => t.statusWord == 0x00000030 && t.dst == 0) = true := by decide +kernel

/-- L1-5: the buffer sizes of a 5 × 5 image. -/
theorem test_buffer_sizes : (inputBufferSize 5 5, outputBufferSize 5 5) = (64, 100) := by decide

/-! ## Witnesses: the hypotheses of every statement can be met -/

/-- A state with 16 output words after reset is legal. -/
theorem small_inv : small.Inv where
  params := by decide +kernel
  shifts := rfl
  luts := fun _ => ⟨rfl, rfl, rfl, rfl⟩
  canonical := List.Pairwise.nil
  inside := fun _ h => absurd h List.not_mem_nil

/-- Any host action can be the next one of a legal state. -/
theorem about_small (act : HostAction) : About (small.issue act) act [] := ⟨rfl, rfl⟩

theorem witness_DecodeOfEncodeIsIdentity :
    (Instr.decodeBlock 1 4).wf = true ∧ (Instr.decodeBlock 4 1).wf = true ∧ (Instr.setFormat 255).wf = true := by decide
theorem witness_DecodedOperandsAreTheFields :
    decode 0x0000FF01 = .ok (.setFormat 255) ∧ decode 0x00000C02 = .ok (.decodeBlock 1 4) := by decide
theorem witness_EncodeOfDecodeIsIdentity : decode 0x00000302 = .ok (.decodeBlock 4 1) := by decide
theorem witness_StepRunsDecodedCommand :
    About (small.issue (.write Reg.cmd.access 0x00000F02)) (.write Reg.cmd.access 0x00000F02) [] ∧
      decode 0x00000F02 = .ok (.decodeBlock 4 4) := ⟨about_small _, by decide⟩
theorem witness_FetchedWordRunsNext :
    decodeTableWord 32 0x00000002 = some (.decodeBlock 1 1) ∧ small.lutValid = true ∧
      small.assertReset.lutValid = false := by decide
theorem witness_IllegalWordRaisesIllegalCmd :
    (∀ w, About (small.issue (.write Reg.cmd.access w)) (.write Reg.cmd.access w) []) ∧
      (4 ≤ (0x00000004 : Word).toNat % 16) ∧
      ((0x00000013 : Word).toNat % 16 = 3 ∧ (0x00000013 : Word).toNat / 16 ≠ 0) ∧
      ((0x00010001 : Word).toNat % 16 = 1 ∧ (0x00010001 : Word).toNat / 2 ^ 16 ≠ 0) ∧
      ((0x00001002 : Word).toNat % 16 = 2 ∧ (0x00001002 : Word).toNat / 2 ^ 12 ≠ 0) ∧
      ((0x0000FF01 : Word).toNat % 16 = 1 ∧ (0x0000FF01 : Word).toNat / 2 ^ 4 % 16 = 0 ∧
        (0x0000FF01 : Word).toNat / 2 ^ 16 = 0) := ⟨fun _ => about_small _, by decide⟩
theorem witness_CmdWriteDecodeOrder :
    (∀ w, About (small.issue (.write Reg.cmd.access w)) (.write Reg.cmd.access w) []) ∧
      About { small with err := .bounds, script := [.write Reg.cmd.access 0x00000001] }
        (.write Reg.cmd.access 0x00000001) [] ∧
      (∀ r ∈ opcodeTable, (0x0000000F : Word) &&& r.mask ≠ r.pattern) ∧ decode 0x00000001 = .ok (.setFormat 0) :=
  ⟨fun _ => about_small _, ⟨rfl, rfl⟩, by decide, by decide⟩
theorem witness_PendingErrorDiscardsFormatAndDecode : ({ small with err := .badAccess } : State).err ≠ .none := by
  decide
theorem witness_SetFormatSelectsAndRebuilds :
    small.err = .none ∧ formatOf 3 ≠ small.format ∧ (small.lutValid = true ∧ formatOf 4 = small.format) ∧
      small.assertReset.err = .none ∧ small.assertReset.lutValid = false := by decide
theorem witness_FmtselResolves : small.err = .none ∧ (3 : BitVec 8).toNat ≤ 3 ∧ 4 ≤ (4 : BitVec 8).toNat := by decide
theorem witness_SameFormatRebuildUnobservable :
    small.Inv ∧ small.lutValid = true ∧ small.err = .none ∧ formatOf 255 = small.format := ⟨small_inv, by decide⟩
theorem witness_FormatRoundTripRestores :
    small.Inv ∧ small.lutValid = true ∧ small.err = .none ∧ formatOf 0 = small.format ∧
      small.shifts = State.reset.shifts ∧ small.params = (grad 0 0).params := ⟨small_inv, by decide⟩
theorem witness_AlphaLutHoldsRamp : 15 < 16 := by decide
theorem witness_ColorLutsHoldPalette : 4095 < 4096 ∧ 16383 < 16384 := by decide
theorem witness_PaletteSlotFormulas :
    (Params.withOutWords 1).blendOrder = .expandThenBlend ∧
      ({ Params.withOutWords 1 with blendOrder := .blendThenExpand } : Params).blendOrder = .blendThenExpand := by decide
theorem witness_DefaultExpansionTables : 1 ≤ 2 ^ 32 ∧ 2 ^ 32 ≤ 2 ^ 32 := by decide
theorem witness_PixelIsFourDisjointChannels : small.Inv ∧ small.lutValid = true ∧ 15 < 16 := ⟨small_inv, by decide⟩
theorem witness_PixelBytesSpellTheFormat : 3 < 4 ∧ small.Inv ∧ small.lutValid = true ∧ 15 < 16 :=
  ⟨by decide, small_inv, by decide⟩

/-- L2-6 V1: the last address of a full clip is the last word of OUTMEM. -/
theorem witness_DecodeBlockCompletesWithFrame :
    (Instr.decodeBlock 4 4).wf = true ∧ (grad 0 4).err = .none ∧ last (grad 0 4) 4 4 < (grad 0 4).params.outWords ∧
      last (grad 0 4) 4 4 + 1 = (grad 0 4).params.outWords := by decide +kernel
theorem witness_HighestTexelWins :
    (Instr.decodeBlock 4 4).wf = true ∧ (grad 0 0).err = .none ∧ last (grad 0 0) 4 4 < (grad 0 0).params.outWords ∧
      (grad 0 0).stride = 0 ∧ Clipped 4 4 15 ∧ Clipped 4 4 11 ∧ address (grad 0 0) 11 = address (grad 0 0) 15 :=
  ⟨by decide, by decide, by decide +kernel, by decide, by unfold Clipped; decide, by unfold Clipped; decide, by decide⟩
theorem witness_DistinctTexelsAllWritten :
    (Instr.decodeBlock 4 4).wf = true ∧ (grad 0 4).err = .none ∧ last (grad 0 4) 4 4 < (grad 0 4).params.outWords ∧
      4 ≤ (grad 0 4).stride.toNat ∧ last (grad 0 0) 4 1 < (grad 0 0).params.outWords ∧ Clipped 4 1 3 :=
  ⟨by decide, by decide, by decide +kernel, by decide, by decide +kernel, by unfold Clipped; decide⟩

/-- L2-6 V2 and V3: one past the end, and the last word. -/
theorem witness_BoundsCheckPrecedesWrites :
    (Instr.decodeBlock 4 4).wf = true ∧ (grad 1 4).err = .none ∧ last (grad 1 4) 4 4 = (grad 1 4).params.outWords ∧
      (Instr.decodeBlock 3 1).wf = true ∧ last (grad 13 4) 3 1 < (grad 13 4).params.outWords := by decide +kernel
theorem witness_NoAddressWraps :
    (Instr.decodeBlock 2 1).wf = true ∧ (grad 0xFFFFFFFF 4).params.outWords ≤ 2 ^ 32 ∧
      (grad 0xFFFFFFFF 4).err = .none ∧ last (grad 0xFFFFFFFF 4) 2 1 = 2 ^ 32 := by decide +kernel
theorem witness_FullClipWritesSixteenTexels :
    (grad 0 4).err = .none ∧ last (grad 0 4) 4 4 < (grad 0 4).params.outWords := by decide +kernel

/-- Two states that agree on a decode's inputs and differ elsewhere. -/
theorem witness_DecodeDependsOnlyOnItsInputs :
    let s' : State := { small with script := [.reset], draws := 3, format := .abgr }
    small.blk0 = s'.blk0 ∧ small.blk1 = s'.blk1 ∧ small.blk2 = s'.blk2 ∧ small.blk3 = s'.blk3 ∧ small.dst = s'.dst ∧
      small.stride = s'.stride ∧ small.alut = s'.alut ∧ small.rlut = s'.rlut ∧ small.glut = s'.glut ∧
      small.blut = s'.blut ∧ small.params.outWords = s'.params.outWords ∧ small.err = s'.err ∧
      small.outmem = s'.outmem ∧ small ≠ s' :=
  ⟨rfl, rfl, rfl, rfl, rfl, rfl, rfl, rfl, rfl, rfl, rfl, rfl, rfl, fun h => nomatch congrArg State.format h⟩
theorem witness_RegisterReadValue (acc : Access) : About (small.issue (.read acc)) (.read acc) [] := about_small _
theorem witness_RegisterWriteEffect (acc : Access) (v : Word) :
    About (small.issue (.write acc v)) (.write acc v) [] := about_small _

/-- A SET_FORMAT that changes FORMAT, a BAD_ACCESS that sets ERR and a CLEAR_ERR that clears it. -/
theorem witness_StatusFieldsAndWriters :
    nextIs (cmd small 0x00000101) (fun t => t.format != small.format) = true ∧
      nextIs (step (small.issue (.write Reg.status.access 0))) (fun t => t.err != small.err) = true ∧
      nextIs (cmd { small with err := .bounds } 0x00000003) (fun t => t.err != .bounds) = true := by decide +kernel

/-- Each of the three errors, raised by a step from a state that holds none. -/
theorem witness_FirstErrorIsKept :
    nextIs (step (small.issue (.write Reg.status.access 0))) (fun t => t.err == .badAccess) = true ∧
      nextIs (cmd small 0x0000000F) (fun t => t.err == .illegalCmd) = true ∧
      nextIs (cmd (grad 1 4) 0x00000F02) (fun t => t.err == .bounds) = true ∧ small.err = .none := by decide +kernel

/-- For each register a step that changes it, and a step that changes the shifts and LUT_VALID. -/
theorem witness_EachRegisterHasItsWriters :
    nextIs (step (small.issue (wrAction .blk0 1))) (fun t => t.blk0 != small.blk0) = true ∧
      nextIs (step (small.issue (wrAction .blk1 1))) (fun t => t.blk1 != small.blk1) = true ∧
      nextIs (step (small.issue (wrAction .blk2 1))) (fun t => t.blk2 != small.blk2) = true ∧
      nextIs (step (small.issue (wrAction .blk3 1))) (fun t => t.blk3 != small.blk3) = true ∧
      nextIs (step (small.issue (wrAction .dst 1))) (fun t => t.dst != small.dst) = true ∧
      nextIs (step (small.issue (wrAction .stride 1))) (fun t => t.stride != small.stride) = true ∧
      nextIs (cmd small 0x00000201) (fun t => t.shifts != small.shifts) = true ∧
      nextIs (step (small.issue .reset)) (fun t => t.lutValid != small.lutValid) = true := by decide +kernel
/-- A host write, a DECODE_BLOCK and a racing DECODE_BLOCK change bytes of OUTMEM. -/
theorem witness_EachRegisterHasItsWriters_outmem :
    nextIs (step (small.issue (.writeOut 15 1))) (fun t => Memory.byte? t.outmem 60 != Memory.byte? small.outmem 60) = true ∧
      nextIs (cmd (grad 0 4) 0x00000F02) (fun t => Memory.byte? t.outmem 63 != Memory.byte? (grad 0 4).outmem 63) = true ∧
      nextIs (step ((grad 0 4).issue (.readOutDuring 0x00000F02 0)))
        (fun t => Memory.byte? t.outmem 63 != Memory.byte? (grad 0 4).outmem 63) = true := by decide +kernel
theorem witness_ResetAndItsBuild : About (small.issue .reset) .reset [] := about_small _
theorem witness_PendingBuildHoldsHostAccesses : (small.issue .reset).assertReset.lutValid = false := rfl

/-- A reset during the decode of L2-6 V1, during a NOP, and during a decode out of bounds. -/
theorem witness_ResetDuringCommandKeepsPrefix :
    (∀ w, About (small.issue (.resetDuring w)) (.resetDuring w) []) ∧
      decode 0x00000F02 = .ok (.decodeBlock 4 4) ∧
      (small.issue (.resetDuring 0x00000F02)).err = .none ∧
      last (small.issue (.resetDuring 0x00000F02)) 4 4 < small.params.outWords ∧
      decode 0x00000000 = .ok .nop ∧ small.params.outWords ≤ last (grad 1 4) 4 4 :=
  ⟨fun _ => about_small _, by decide +kernel⟩
theorem witness_ResetStateIsLegal : (Params.withOutWords 1).wf ∧ Memory.wf [(0, 7), (3, 1)] := by decide +kernel
theorem witness_StepKeepsLegalState : small.Inv ∧ step small = .next small := ⟨small_inv, rfl⟩
theorem witness_StepAnswersOrHostLeavesOutmem :
    step (small.issue (.readOut 16)) = .fault (.outsideOutmem 16) := by rfl
theorem witness_OutmemHostAccess :
    About { small with script := [.writeOut 15 0x01020304, .readOut 15] } (.writeOut 15 0x01020304) [.readOut 15] ∧
      15 < small.params.outWords := ⟨⟨rfl, rfl⟩, by decide⟩
theorem witness_RacingReadSeesOldOrNew :
    (∀ st, About { grad 0 st with script := [.readOutDuring 0x00000F02 15] } (.readOutDuring 0x00000F02 15) []) ∧
      15 < (grad 0 4).params.outWords := ⟨fun _ => ⟨rfl, rfl⟩, by decide⟩

/-- With STRIDE = 4 at most one texel is written to an address; with STRIDE = 0 four are written to address 3. -/
theorem witness_RacingReadSeesOldOrNew_texels :
    (∀ i j, WritesTexel (grad 0 4) 0x00000F02 i 15 → WritesTexel (grad 0 4) 0x00000F02 j 15 → i = j) ∧
      WritesTexel (grad 0 0) 0x00000F02 3 3 ∧ WritesTexel (grad 0 0) 0x00000F02 15 3 := by
  have unique : ∀ i < 16, ∀ j < 16, address (grad 0 4) i = 15 → address (grad 0 4) j = 15 → i = j := by decide
  refine ⟨fun i j => ?_, ?_, ?_⟩
  · rintro ⟨_, _, -, -, -, hi, ha⟩ ⟨_, _, -, -, -, hj, hb⟩
    exact unique i hi.1 j hj.1 ha hb
  · exact ⟨4, 4, by decide, by decide, by decide +kernel, by unfold Clipped; decide, by decide⟩
  · exact ⟨4, 4, by decide, by decide, by decide +kernel, by unfold Clipped; decide, by decide⟩
theorem witness_LoadBlockPacksLittleEndian :
    (List.replicate 16 (0xA5 : Byte)).length = 16 ∧
      14 + 2 ≤ (List.replicate 16 (0xA5 : Byte)).length ∧ 12 + 4 ≤ (List.replicate 16 (0xA5 : Byte)).length ∧
      8 + 8 ≤ (List.replicate 16 (0xA5 : Byte)).length ∧
      (small.withScript ((ScriptLine.ldblk (List.replicate 16 0xA5)).expand ++ [.reset])).lutValid = true := by decide
theorem witness_DriverRejectsInvalidArguments :
    (¬ (1 ≤ 0 ∧ 1 ≤ 5)) ∧ (¬ ((1 + 3) / 4 * ((1 + 3) / 4) * 16 ≤ (List.replicate 15 (0 : Byte)).length)) ∧
      (¬ (0 + 17 * 1 ≤ small.params.outWords)) ∧ (¬ (2 ^ 32 < 2 ^ 32 ∧ 0 < 2 ^ 32)) := by decide

/-- A 5 × 3 image of two blocks that just fits in 16 words, at address 1. -/
def twoBlocks : Image := { width := 5, height := 3, input := List.replicate 32 0x5A, obase := 1 }
theorem witness_DriverCommandCount : twoBlocks.valid 16 = true := by decide
theorem witness_DriverDecodesImage :
    small.Inv ∧ small.err = .none ∧ twoBlocks.valid small.params.outWords = true := ⟨small_inv, by decide⟩
theorem witness_DriverReportsPendingError :
    ({ small with err := .bounds } : State).err ≠ .none ∧ twoBlocks.valid small.params.outWords = true := by decide

end Sys2Proof.Tests
end

/-! ## PROOFS. The state, its registers and its output memory (10_state.md) -/

namespace Sys2Proof.Machine

open Sys2Proof.Claims

/-! ### Registers: a write to one, and reading it or another back -/

/-- The state with v in the register r; a write sets no register at CMD or STATUS (43_control.md R153). -/
def State.setReg (s : State) (r : Reg) (v : Word) : State :=
  match r with
  | .cmd => s
  | .status => s
  | .blk0 => { s with blk0 := v }
  | .blk1 => { s with blk1 := v }
  | .blk2 => { s with blk2 := v }
  | .blk3 => { s with blk3 := v }
  | .dst => { s with dst := v }
  | .stride => { s with stride := v }

/-- Everything a register write can do, the six word registers taken together (43_control.md R153). -/
theorem writeReg_setReg_cases (acc : Access) (v : Word) (s : State) :
    (acc = Reg.cmd.access ∧ writeReg acc v s = writeCmd v s) ∨
    (∃ r : Reg, r ≠ .cmd ∧ r ≠ .status ∧ acc = r.access ∧ writeReg acc v s = .next (s.setReg r v)) ∨
    ((acc.reg? = some .status ∨ acc.reg? = none) ∧ writeReg acc v s = .next (s.raise .badAccess)) := by
  rcases writeReg_cases acc v s with h | h | h | h | h | h | h | h
  · exact .inl h
  · exact .inr (.inl ⟨.blk0, by decide, by decide, h⟩)
  · exact .inr (.inl ⟨.blk1, by decide, by decide, h⟩)
  · exact .inr (.inl ⟨.blk2, by decide, by decide, h⟩)
  · exact .inr (.inl ⟨.blk3, by decide, by decide, h⟩)
  · exact .inr (.inl ⟨.dst, by decide, by decide, h⟩)
  · exact .inr (.inl ⟨.stride, by decide, by decide, h⟩)
  · exact .inr (.inr h)

theorem readReg_setReg_same (s : State) {r : Reg} (hc : r ≠ .cmd) (hs : r ≠ .status) (v : Word) :
    (s.setReg r v).readReg r.access = v := by
  cases r with
  | cmd => exact absurd rfl hc
  | status => exact absurd rfl hs
  | _ => rfl

/-- A write to r' reaches another field of the state than the one that r reads. -/
theorem readReg_setReg_other (s : State) {r r' : Reg} (h : r ≠ r') (v : Word) :
    (s.setReg r' v).readReg r.access = s.readReg r.access := by
  cases r <;> cases r' <;> (try contradiction) <;> rfl

theorem readReg_raise (s : State) {r : Reg} (hs : r ≠ .status) (c : ErrCode) :
    (s.raise c).readReg r.access = s.readReg r.access := by
  cases r with
  | status => exact absurd rfl hs
  | _ => rfl

/-! ### Everything a command, a host action and a step can leave -/

/-- What a CMD write of w can leave of s (30_encoding.md R66, R67; 60_exceptions.md R163). -/
inductive CommandEffect (s : State) (w : Word) : State → Prop
  | nothing : CommandEffect s w s
  | clearErr (hd : decode w = .ok .clearErr) : CommandEffect s w s.clearError
  | setFormat (f : BitVec 8) (hd : decode w = .ok (.setFormat f)) :
      CommandEffect s w (s.loadFormat (resolveFormat f)).rebuildLuts
  | texels : CommandEffect s w (s.outWrites (s.wordWrites w))
  | bounds (vw vh : Nat) (hd : decode w = .ok (.decodeBlock vw vh)) (hb : s.params.outWords ≤ s.lastAddress vw vh) :
      CommandEffect s w (s.raise .bounds)
  | illegal (r : Reject) (hd : decode w = .error r) : CommandEffect s w (s.raise .illegalCmd)

/-- What a host action can leave of s (43_control.md R152, R153; 20_memory.md R53; 70_reset_and_hazards.md R180,
R182). -/
inductive ActionEffect (s : State) : HostAction → State → Prop
  | read (acc : Access) : ActionEffect s (.read acc) (s.recordRead (s.readReg acc))
  | command (w : Word) (t : State) (h : CommandEffect s w t) : ActionEffect s (.write Reg.cmd.access w) t
  | register (r : Reg) (v : Word) (hc : r ≠ .cmd) (hs : r ≠ .status) :
      ActionEffect s (.write r.access v) (s.setReg r v)
  | badAccess (acc : Access) (v : Word) (h : acc.reg? = some .status ∨ acc.reg? = none) :
      ActionEffect s (.write acc v) (s.raise .badAccess)
  | readOut (a : Nat) : ActionEffect s (.readOut a) (s.recordRead (Memory.readWord s.outmem a))
  | writeOut (a : Nat) (v : Word) (ha : a < s.params.outWords) :
      ActionEffect s (.writeOut a v) (s.outWrites [(a, v)])
  | reset : ActionEffect s .reset s.assertReset
  | resetDuring (w : Word) : ActionEffect s (.resetDuring w) (s.resetDuring w)
  | racing (w : Word) (a : Nat) (t : State) (v : Word) (h : CommandEffect s.drawn w t) :
      ActionEffect s (.readOutDuring w a) (t.recordRead v)

theorem inBounds_iff {s : State} {vw vh : Nat} :
    s.inBounds vw vh = true ↔ s.lastAddress vw vh < s.params.outWords := decide_eq_true_iff

/-- A CMD write has one of the effects listed. -/
theorem writeCmd_effect {s t : State} {w : Word} (h : writeCmd w s = .next t) : CommandEffect s w t := by
  rcases writeCmd_cases w s with ⟨i, hd, e⟩ | ⟨⟨r, hd⟩, e⟩ <;> rw [e] at h
  · rcases exec_cases i s with e | ⟨rfl, e⟩ | ⟨f, rfl, -, e⟩ | ⟨vw, vh, rfl, he, hb, e⟩ | ⟨vw, vh, rfl, he, hb, e⟩ <;>
      rw [e] at h <;> cases h
    · exact .nothing
    · exact .clearErr hd
    · rcases selectFormat_cases s (resolveFormat f) with ⟨e, -, -⟩ | e <;> rw [e]
      · exact .nothing
      · exact .setFormat f hd
    · have hw : s.wordWrites w = s.texelWrites vw vh := by simp [State.wordWrites, State.commandWrites, hd, he, hb]
      exact hw ▸ .texels
    · exact .bounds vw vh hd (Nat.not_lt.1 (mt inBounds_iff.2 (by simp [hb])))
  · cases h
    exact .illegal r hd

/-- A host access to OUTMEM that answers is to a word that exists, and answers as if unchecked (log 16). -/
theorem of_hasOutWord {s t : State} {a : Nat} {o : Host.Outcome State Fault Refusal}
    (h : (if s.hasOutWord a then o else .fault (.outsideOutmem a)) = .next t) : a < s.params.outWords ∧ o = .next t := by
  split at h
  · rename_i ha
    exact ⟨by simpa [State.hasOutWord] using ha, h⟩
  · cases h

/-- A host action that answers has one of the effects listed. -/
theorem perform_effect {s t : State} {act : HostAction} (h : perform act s = .next t) : ActionEffect s act t := by
  cases act with
  | read acc => cases h; exact .read acc
  | write acc v =>
    change writeReg acc v s = .next t at h
    rcases writeReg_setReg_cases acc v s with ⟨rfl, e⟩ | ⟨r, hc, hs, rfl, e⟩ | ⟨ha, e⟩ <;> rw [e] at h
    · exact .command v t (writeCmd_effect h)
    · cases h; exact .register r v hc hs
    · cases h; exact .badAccess acc v ha
  | readOut a =>
    obtain ⟨-, h⟩ := of_hasOutWord h
    cases h; exact .readOut a
  | writeOut a v =>
    obtain ⟨ha, h⟩ := of_hasOutWord h
    cases h; exact .writeOut a v ha
  | reset => cases h; exact .reset
  | resetDuring w => cases h; exact .resetDuring w
  | readOutDuring w a =>
    obtain ⟨ha, -⟩ := of_hasOutWord h
    obtain ⟨u, hu, e⟩ := readOutDuring_eq (w := w) ha
    change readOutDuring w a s = .next t at h
    rw [e] at h
    cases h
    exact .racing w a u _ (writeCmd_effect hu)

/-- A step that answers is the reset build, idles, or has the effect of the script's first action. -/
theorem step_effect {s t : State} (h : step s = .next t) :
    (s.lutValid = false ∧ t = s.rebuildLuts) ∨ t = s ∨
    ∃ act rest, s.script = act :: rest ∧ ActionEffect (s.withScript rest) act t := by
  rcases step_cases s with ⟨hv, e⟩ | ⟨-, -, e⟩ | ⟨act, rest, -, hs, e⟩ <;> rw [e] at h
  · cases h; exact .inl ⟨hv, rfl⟩
  · cases h; exact .inr (.inl rfl)
  · exact .inr (.inr ⟨act, rest, hs, perform_effect h⟩)

/-! ### Legal states: what each operation keeps -/

theorem State.Inv.withScript {s : State} (h : s.Inv) (acts : List HostAction) : (s.withScript acts).Inv :=
  ⟨h.params, h.shifts, h.luts, h.canonical, h.inside⟩

theorem State.Inv.recordRead {s : State} (h : s.Inv) (v : Word) : (s.recordRead v).Inv :=
  ⟨h.params, h.shifts, h.luts, h.canonical, h.inside⟩

theorem State.Inv.drawn {s : State} (h : s.Inv) : s.drawn.Inv :=
  ⟨h.params, h.shifts, h.luts, h.canonical, h.inside⟩

theorem State.Inv.raise {s : State} (h : s.Inv) (c : ErrCode) : (s.raise c).Inv :=
  ⟨h.params, h.shifts, h.luts, h.canonical, h.inside⟩

theorem State.Inv.clearError {s : State} (h : s.Inv) : s.clearError.Inv :=
  ⟨h.params, h.shifts, h.luts, h.canonical, h.inside⟩

theorem State.Inv.setReg {s : State} (h : s.Inv) (r : Reg) (v : Word) : (s.setReg r v).Inv := by
  cases r <;> exact ⟨h.params, h.shifts, h.luts, h.canonical, h.inside⟩

theorem State.Inv.rebuildLuts {s : State} (h : s.Inv) : s.rebuildLuts.Inv :=
  ⟨h.params, h.shifts, fun _ => ⟨rfl, rfl, rfl, rfl⟩, h.canonical, h.inside⟩

/-- Between the loading of the format and the rebuild the LUTs are not those of the shifts, so the two are one
lemma (40_format_and_lut.md R82). -/
theorem State.Inv.loadFormat_rebuildLuts {s : State} (h : s.Inv) (f : PixelFormat) :
    (s.loadFormat f).rebuildLuts.Inv :=
  ⟨h.params, rfl, fun _ => ⟨rfl, rfl, rfl, rfl⟩, h.canonical, h.inside⟩

/-- LUT_VALID is 0 after the assertion of reset, so nothing is claimed of the LUTs (log 7). -/
theorem State.Inv.assertReset {s : State} (h : s.Inv) : s.assertReset.Inv :=
  ⟨h.params, rfl, fun hv => Bool.noConfusion hv, h.canonical, h.inside⟩

theorem State.Inv.outWrites {s : State} (h : s.Inv) {ws : List (Nat × Word)}
    (hw : ∀ c ∈ ws, c.1 < s.params.outWords) : (s.outWrites ws).Inv where
  params := h.params
  shifts := h.shifts
  luts := h.luts
  canonical := wf_writeWords h.canonical ws
  inside c hc := by
    rcases mem_writeWords hc with ⟨w, hmem, hcw⟩ | hold
    · have hlt := hw w hmem
      show c.1 < 4 * s.params.outWords
      omega
    · exact h.inside c hold

/-- The OutWrites of a whole CMD write are in range (20_memory.md R43). -/
theorem wordWrites_inRange {s : State} {w : Word} {c : Nat × Word} (h : c ∈ s.wordWrites w) :
    c.1 < s.params.outWords := by
  obtain ⟨vw, vh, i, -, -, hb, hi, rfl⟩ := mem_wordWrites.1 h
  exact Nat.lt_of_le_of_lt (texelAddress_le hi) (inBounds_iff.1 hb)

theorem CommandEffect.keeps_inv {s t : State} {w : Word} (h : CommandEffect s w t) (hi : s.Inv) : t.Inv := by
  cases h with
  | nothing => exact hi
  | clearErr _ => exact hi.clearError
  | setFormat f _ => exact hi.loadFormat_rebuildLuts _
  | texels => exact hi.outWrites fun _ => wordWrites_inRange
  | bounds _ _ _ _ => exact hi.raise _
  | illegal _ _ => exact hi.raise _

theorem ActionEffect.keeps_inv {s t : State} {act : HostAction} (h : ActionEffect s act t) (hi : s.Inv) : t.Inv := by
  cases h with
  | read acc => exact hi.recordRead _
  | command w _ h => exact h.keeps_inv hi
  | register r v _ _ => exact hi.setReg r v
  | badAccess _ _ _ => exact hi.raise _
  | readOut a => exact hi.recordRead _
  | writeOut a v ha => exact hi.outWrites fun c hc => by rw [List.mem_singleton.1 hc]; exact ha
  | reset => exact hi.assertReset
  | resetDuring w => exact (hi.outWrites fun _ => partialWrites_inRange).drawn.assertReset
  | racing w a u v h => exact (h.keeps_inv hi.drawn).recordRead v

/-- Settles O43: the reset build and every effect of a host action keep Inv. -/
theorem stepKeepsLegalState : Obligations.StepKeepsLegalState := by
  intro s t hi h
  rcases step_effect h with ⟨-, rfl⟩ | rfl | ⟨act, rest, -, he⟩
  · exact hi.rebuildLuts
  · exact hi
  · exact he.keeps_inv (hi.withScript rest)

/-! ### Who changes FORMAT, the shifts and the LUT state -/

/-- The two states hold the same FORMAT, shifts, LUT_VALID and LUTs (10_state.md R24 to R27). -/
structure SameFormatState (s t : State) : Prop where
  format : t.format = s.format
  shifts : t.shifts = s.shifts
  lutValid : t.lutValid = s.lutValid
  alut : t.alut = s.alut
  rlut : t.rlut = s.rlut
  glut : t.glut = s.glut
  blut : t.blut = s.blut

theorem CommandEffect.setFormat_or_same {s t : State} {w : Word} {act : HostAction} (h : CommandEffect s w t)
    (hw : WritesCmd act w) : (∃ f, Issues act (.setFormat f)) ∨ SameFormatState s t := by
  cases h with
  | setFormat f hd => exact .inl ⟨f, w, hd, hw⟩
  | _ => exact .inr ⟨rfl, rfl, rfl, rfl, rfl, rfl, rfl⟩

theorem ActionEffect.formatState_writer {s t : State} {act : HostAction} (h : ActionEffect s act t) :
    ((∃ f, Issues act (.setFormat f)) ∨ IsReset act) ∨ SameFormatState s t := by
  cases h with
  | command w _ h => exact (h.setFormat_or_same (.inl rfl)).imp_left .inl
  | racing w a u v h =>
    rcases h.setFormat_or_same (.inr ⟨a, rfl⟩) with hf | ⟨h1, h2, h3, h4, h5, h6, h7⟩
    · exact .inl (.inl hf)
    · exact .inr ⟨h1, h2, h3, h4, h5, h6, h7⟩
  | reset => exact .inl (.inr (.inl rfl))
  | resetDuring w => exact .inl (.inr (.inr ⟨w, rfl⟩))
  | register r v _ _ => cases r <;> exact .inr ⟨rfl, rfl, rfl, rfl, rfl, rfl, rfl⟩
  | _ => exact .inr ⟨rfl, rfl, rfl, rfl, rfl, rfl, rfl⟩

/-- The format state changes by SET_FORMAT or reset alone, but for the LUTs and LUT_VALID in a reset build. -/
theorem step_formatState_writer {s t : State} (h : step s = .next t) :
    (∃ act rest, s.script = act :: rest ∧ ((∃ f, Issues act (.setFormat f)) ∨ IsReset act)) ∨
    SameFormatState s t ∨ (s.lutValid = false ∧ t.format = s.format ∧ t.shifts = s.shifts) := by
  rcases step_effect h with ⟨hv, rfl⟩ | rfl | ⟨act, rest, hs, he⟩
  · exact .inr (.inr ⟨hv, rfl, rfl⟩)
  · exact .inr (.inl ⟨rfl, rfl, rfl, rfl, rfl, rfl, rfl⟩)
  · rcases he.formatState_writer with hw | ⟨h1, h2, h3, h4, h5, h6, h7⟩
    · exact .inl ⟨act, rest, hs, hw⟩
    · exact .inr (.inl ⟨h1, h2, h3, h4, h5, h6, h7⟩)

/-! ### Who changes ERR, and the STATUS word -/

/-- Recording an error changes ERR only from NONE, and to that error (60_exceptions.md R161). -/
theorem record_ne {held new : ErrCode} (h : held.record new ≠ held) : held = .none ∧ held.record new = new := by
  rw [record_eq] at h ⊢
  split at h
  · exact ⟨‹_›, if_pos ‹_›⟩
  · exact absurd rfl h

/-- A word that is no command matches no row of the opcode map (30_encoding.md R65, R66). -/
theorem not_hits_of_decode_error {w : Word} {e : Reject} (h : decode w = .error e) :
    ∀ r ∈ opcodeTable, w &&& r.mask ≠ r.pattern := by
  intro r hr hm
  rw [decode_of_hits hr (by simpa [OpcodeRow.hits] using hm)] at h
  cases h

/-- An access that reaches no register or STATUS is none of those that a host write may make. -/
theorem not_writable_of_reg? {acc : Access} (h : acc.reg? = some .status ∨ acc.reg? = none) :
    ¬ (acc.size = 4 ∧ acc.offset ∈ [0x00, 0x08, 0x0C, 0x10, 0x14, 0x18, 0x1C]) := by
  rintro ⟨hn, ho⟩
  obtain ⟨o, n⟩ := acc
  obtain rfl : n = 4 := hn
  simp only [List.mem_cons, List.not_mem_nil, or_false] at ho
  rcases ho with rfl | rfl | rfl | rfl | rfl | rfl | rfl <;> revert h <;> decide

theorem CommandEffect.err_writer {s t : State} {w : Word} {act : HostAction} (h : CommandEffect s w t)
    (hw : WritesCmd act w) (hne : t.err ≠ s.err) :
    (s.err = .none ∧ Causes s act t.err) ∨ (t.err = .none ∧ Issues act .clearErr) := by
  cases h with
  | nothing => exact absurd rfl hne
  | clearErr hd => exact .inr ⟨rfl, w, hd, hw⟩
  | setFormat f _ => exact absurd rfl hne
  | texels => exact absurd rfl hne
  | bounds vw vh hd hb =>
    obtain ⟨hn, he⟩ := record_ne hne
    exact .inl ⟨hn, by rw [State.raise_err, he]; exact ⟨vw, vh, ⟨w, hd, hw⟩, hb⟩⟩
  | illegal r hd =>
    obtain ⟨hn, he⟩ := record_ne hne
    exact .inl ⟨hn, by rw [State.raise_err, he]; exact ⟨w, not_hits_of_decode_error hd, hw⟩⟩

theorem ActionEffect.err_writer {s t : State} {act : HostAction} (h : ActionEffect s act t) (hne : t.err ≠ s.err) :
    (s.err = .none ∧ Causes s act t.err) ∨ (t.err = .none ∧ (Issues act .clearErr ∨ IsReset act)) := by
  cases h with
  | command w _ h => exact (h.err_writer (.inl rfl) hne).imp_right (And.imp_right .inl)
  | racing w a u v h => exact (h.err_writer (.inr ⟨a, rfl⟩) hne).imp_right (And.imp_right .inl)
  | badAccess acc v ha =>
    obtain ⟨hn, he⟩ := record_ne hne
    exact .inl ⟨hn, by rw [State.raise_err, he]; exact ⟨acc, v, rfl, not_writable_of_reg? ha⟩⟩
  | reset => exact .inr ⟨rfl, .inr (.inl rfl)⟩
  | resetDuring w => exact .inr ⟨rfl, .inr (.inr ⟨w, rfl⟩)⟩
  | register r v _ _ => cases r <;> exact absurd rfl hne
  | _ => exact absurd rfl hne

theorem errCode_le (e : ErrCode) : e.code.toNat ≤ 3 := by cases e <;> decide

/-- The STATUS word as a number (10_state.md R22). -/
theorem statusWord_toNat (s : State) : s.statusWord.toNat = 16 * s.err.code.toNat + s.format.code.toNat := by
  have he := errCode_le s.err
  have hf := s.format.code.isLt
  simp only [State.statusWord, BitVec.toNat_setWidth, BitVec.toNat_append, BitVec.toNat_ofNat]
  rw [shiftLeft_or_eq _ (0 % 2 ^ 2) 2 (by decide), shiftLeft_or_eq _ _ 2 hf]
  omega

/-- A field of the STATUS word as a number. -/
theorem statusWord_extractLsb'_toNat (s : State) (o n : Nat) :
    (s.statusWord.extractLsb' o n).toNat = (16 * s.err.code.toNat + s.format.code.toNat) / 2 ^ o % 2 ^ n := by
  rw [BitVec.extractLsb'_toNat, statusWord_toNat, Nat.shiftRight_eq_div_pow]

/-- The fields of the STATUS word: FORMAT, zeros, ERR, zeros (10_state.md R22). -/
theorem statusWord_fields (s : State) :
    statusFmtField s.statusWord = s.format.code ∧ statusErrField s.statusWord = s.err.code ∧
      s.statusWord.extractLsb' 2 2 = 0 ∧ s.statusWord.extractLsb' 8 24 = 0 := by
  have he := errCode_le s.err
  have hf := s.format.code.isLt
  refine ⟨?_, ?_, ?_, ?_⟩ <;> apply BitVec.eq_of_toNat_eq
  · rw [statusFmtField, statusWord_extractLsb'_toNat]; omega
  · rw [statusErrField, statusWord_extractLsb'_toNat]; omega
  · rw [statusWord_extractLsb'_toNat]; show _ = 0; omega
  · rw [statusWord_extractLsb'_toNat]; show _ = 0; omega

/-- Settles O35: the STATUS word by its fields, the writers of FORMAT and ERR from the effects of a step. -/
theorem statusFieldsAndWriters : Obligations.StatusFieldsAndWriters := by
  intro s
  obtain ⟨hfmt, herr, hlow, hhigh⟩ := statusWord_fields s
  refine ⟨⟨statusWord_toNat s, hfmt, herr, hlow, hhigh, errCode_le s.err⟩, fun t h => ⟨fun hne => ?_, fun hne => ?_⟩⟩
  · rcases step_formatState_writer h with hw | hsame | ⟨-, hf, -⟩
    · exact hw
    · exact absurd hsame.format hne
    · exact absurd hf hne
  · rcases step_effect h with ⟨-, rfl⟩ | rfl | ⟨act, rest, hs, he⟩
    · exact absurd rfl hne
    · exact absurd rfl hne
    · exact ⟨act, rest, hs, he.err_writer hne⟩

/-! ### Who changes the registers, the parameters and OUTMEM -/

theorem CommandEffect.readReg_eq {s t : State} {w : Word} (h : CommandEffect s w t) {r : Reg} (hs : r ≠ .status) :
    t.readReg r.access = s.readReg r.access := by
  cases r with
  | status => exact absurd rfl hs
  | _ => cases h <;> rfl

theorem ActionEffect.register_writer {s t : State} {act : HostAction} (h : ActionEffect s act t) {r : Reg}
    (hs : r ≠ .status) :
    t.readReg r.access = s.readReg r.access ∨ act = .write r.access (t.readReg r.access) ∨ IsReset act := by
  cases h with
  | command w _ h => exact .inl (h.readReg_eq hs)
  | racing w a u v h => exact .inl (h.readReg_eq hs)
  | register r' v hc' hs' =>
    by_cases hr : r = r'
    · subst hr
      exact .inr (.inl (by rw [readReg_setReg_same s hc' hs']))
    · exact .inl (readReg_setReg_other s hr v)
  | badAccess _ _ _ => exact .inl (readReg_raise s hs _)
  | reset => exact .inr (.inr (.inl rfl))
  | resetDuring w => exact .inr (.inr (.inr ⟨w, rfl⟩))
  | _ => exact .inl rfl

/-- What a register reads as, STATUS apart, changes by a host write of it or by reset alone (10_state.md R20). -/
theorem step_register_writer {s t : State} (h : step s = .next t) {r : Reg} (hs : r ≠ .status)
    (hne : t.readReg r.access ≠ s.readReg r.access) :
    ∃ act rest, s.script = act :: rest ∧ (act = .write r.access (t.readReg r.access) ∨ IsReset act) := by
  rcases step_effect h with ⟨-, rfl⟩ | rfl | ⟨act, rest, hscript, he⟩
  · exact absurd rfl hne
  · exact absurd rfl hne
  · exact ⟨act, rest, hscript, (he.register_writer hs).resolve_left hne⟩

theorem CommandEffect.params_eq {s t : State} {w : Word} (h : CommandEffect s w t) : t.params = s.params := by
  cases h <;> rfl

theorem ActionEffect.params_eq {s t : State} {act : HostAction} (h : ActionEffect s act t) : t.params = s.params := by
  cases h with
  | command w _ h => exact h.params_eq
  | racing w a u v h => exact h.params_eq
  | register r v _ _ => cases r <;> rfl
  | _ => rfl

theorem step_params_eq {s t : State} (h : step s = .next t) : t.params = s.params := by
  rcases step_effect h with ⟨-, rfl⟩ | rfl | ⟨act, rest, -, he⟩
  · rfl
  · rfl
  · exact he.params_eq

/-- A byte that a list of OutWrites changes is in a word that one of them writes. -/
theorem exists_write_of_byte?_ne {m : Memory} {ws : List (Nat × Word)} {b : Nat}
    (h : Memory.byte? (Memory.writeWords m ws) b ≠ Memory.byte? m b) : ∃ c ∈ ws, b / 4 = c.1 := by
  by_contra hn
  push Not at hn
  exact h (byte?_writeWords_frame hn m)

/-- Each OutWrite of a CMD write is that of a texel (41_block_decode.md R107). -/
theorem writesTexel_of_mem_wordWrites {s : State} {w : Word} {c : Nat × Word} (h : c ∈ s.wordWrites w) :
    ∃ i, WritesTexel s w i c.1 := by
  obtain ⟨vw, vh, i, hd, he, hb, hi, rfl⟩ := mem_wordWrites.1 h
  exact ⟨i, vw, vh, hd, he, inBounds_iff.1 hb, mem_clipTexels.1 hi, rfl⟩

theorem CommandEffect.byte_writer {s t : State} {w : Word} {b : Nat} (h : CommandEffect s w t)
    (hne : Memory.byte? t.outmem b ≠ Memory.byte? s.outmem b) : ∃ i, WritesTexel s w i (b / 4) := by
  cases h with
  | texels =>
    obtain ⟨c, hc, hb⟩ := exists_write_of_byte?_ne hne
    exact hb ▸ writesTexel_of_mem_wordWrites hc
  | _ => exact absurd rfl hne

theorem ActionEffect.byte_writer {s t : State} {act : HostAction} {b : Nat} (h : ActionEffect s act t)
    (hne : Memory.byte? t.outmem b ≠ Memory.byte? s.outmem b) :
    (∃ w i, WritesTexel s w i (b / 4) ∧ (WritesCmd act w ∨ act = .resetDuring w)) ∨
      (b / 4 < s.params.outWords ∧ ∃ v, act = .writeOut (b / 4) v) := by
  cases h with
  | command w _ h =>
    obtain ⟨i, hi⟩ := h.byte_writer hne
    exact .inl ⟨w, i, hi, .inl (.inl rfl)⟩
  | racing w a u v h =>
    obtain ⟨i, hi⟩ := h.byte_writer hne
    exact .inl ⟨w, i, hi, .inl (.inr ⟨a, rfl⟩)⟩
  | resetDuring w =>
    obtain ⟨c, hc, hb⟩ := exists_write_of_byte?_ne hne
    obtain ⟨i, hi⟩ := writesTexel_of_mem_wordWrites (List.mem_of_mem_take hc)
    exact .inl ⟨w, i, hb ▸ hi, .inr rfl⟩
  | writeOut a v ha =>
    obtain ⟨c, hc, hb⟩ := exists_write_of_byte?_ne hne
    obtain rfl : b / 4 = a := by rw [hb, List.mem_singleton.1 hc]
    exact .inr ⟨ha, v, rfl⟩
  | register r v _ _ => cases r <;> exact absurd rfl hne
  | _ => exact absurd rfl hne

/-- Settles O37: each clause is a writer lemma of the step, the six registers one lemma. -/
theorem eachRegisterHasItsWriters : Obligations.EachRegisterHasItsWriters := by
  intro s t h
  refine ⟨step_params_eq h,
    step_register_writer h (r := .blk0) (by decide), step_register_writer h (r := .blk1) (by decide),
    step_register_writer h (r := .blk2) (by decide), step_register_writer h (r := .blk3) (by decide),
    step_register_writer h (r := .dst) (by decide), step_register_writer h (r := .stride) (by decide),
    fun hne => ?_, fun hne => ?_, fun b hne => ?_⟩
  · rcases step_formatState_writer h with hw | hsame | ⟨-, -, hsh⟩
    · exact hw
    · exact absurd hsame.shifts hne
    · exact absurd hsh hne
  · rcases step_formatState_writer h with hw | hsame | ⟨hv, -, -⟩
    · exact .inr hw
    · simp [hsame.lutValid, hsame.alut, hsame.rlut, hsame.glut, hsame.blut] at hne
    · exact .inl hv
  · rcases step_effect h with ⟨-, rfl⟩ | rfl | ⟨act, rest, hs, he⟩
    · exact absurd rfl hne
    · exact absurd rfl hne
    · exact ⟨act, rest, hs, he.byte_writer hne⟩

/-! ### Host accesses to OUTMEM -/

theorem step_readOut {s : State} {a : Nat} {rest : List HostAction} (hv : s.lutValid = true)
    (hs : s.script = .readOut a :: rest) (ha : a < s.params.outWords) :
    step s = .next ((s.withScript rest).recordRead (Memory.readWord s.outmem a)) := by
  simp [step_perform hv hs, perform, readOut, State.hasOutWord, ha]

theorem step_writeOut {s : State} {a : Nat} {v : Word} {rest : List HostAction} (hv : s.lutValid = true)
    (hs : s.script = .writeOut a v :: rest) (ha : a < s.params.outWords) :
    step s = .next ((s.withScript rest).outWrites [(a, v)]) := by
  simp [step_perform hv hs, perform, writeOut, State.hasOutWord, ha]

/-- The four bytes of a word after an OutWrite to it (20_memory.md R42). -/
theorem byte?_writeWord_same (m : Memory) (a : Nat) (v : Word) {k : Nat} (hk : k < 4) :
    Memory.byte? (Memory.writeWord m a v) (4 * a + k) = some (byteOf v k) := by
  rw [byte?_writeWord, if_pos (by omega), show (4 * a + k) % 4 = k by omega]

/-- Settles O45: the write is one OutWrite, and the read finds its four bytes. -/
theorem outmemHostAccess : Obligations.OutmemHostAccess := by
  intro s a v rest ⟨hv, hs⟩ ha
  refine ⟨Memory.writeWord s.outmem a v, step_writeOut hv hs ha, fun b hb => ?_,
    fun k => byte?_writeWord_same _ _ _, (step_readOut (by exact hv) rfl (by exact ha)).trans ?_⟩
  · rw [byte?_writeWord, if_neg hb]
  · rw [readWord_of_bytes fun k => byte?_writeWord_same s.outmem a v]
    rfl

/-! ### The state after reset, and the command that a fetched word is -/

/-- A numbered word that reads as a command is a command word that decodes to it (30_encoding.md R60). -/
theorem decodeTableWord_eq_some {nbits w : Nat} {i : Instr} (h : decodeTableWord nbits w = some i) :
    ∃ v, commandWord nbits w = some v ∧ decode v = .ok i := by
  unfold decodeTableWord at h
  split at h
  · rename_i v hv
    split at h
    · rename_i j hj
      cases h
      exact ⟨v, hv, hj⟩
    · cases h
  · cases h

/-- The step after withFetchWord runs the command on the state with its reset build done. -/
theorem step_withFetchWord {s : State} {nbits w : Nat} {i : Instr} (h : decodeTableWord nbits w = some i)
    (hv : s.ready.lutValid = true) : step (s.withFetchWord nbits w) = exec i s.ready := by
  obtain ⟨v, hw, hd⟩ := decodeTableWord_eq_some h
  have hf : s.withFetchWord nbits w = s.ready.issue (.write Reg.cmd.access v) := by simp [State.withFetchWord, hw]
  rw [hf, step_cmd (s := s.ready.issue (.write Reg.cmd.access v)) (rest := s.ready.script) hv rfl, writeCmd, hd]
  rfl

/-- Settles O7: the two cases of State.ready. -/
theorem fetchedWordRunsNext : Obligations.FetchedWordRunsNext := by
  intro s nbits w i h
  refine ⟨fun hv => ?_, fun hv => ?_⟩
  · have hr : s.ready = s := by simp [State.ready, hv]
    rw [step_withFetchWord h (by rw [hr, hv]), hr]
  · have hr : s.ready = s.rebuildLuts := by simp [State.ready, hv]
    rw [step_withFetchWord h (by rw [hr]; rfl), hr]

/-- Settles O39: each row of the table is a field of State.resetWith. -/
theorem resetStateTable : Obligations.ResetStateTable :=
  ⟨fun _ _ => ⟨rfl, rfl, rfl, ⟨rfl, rfl, rfl, rfl⟩, rfl, BitVec.eq_of_toNat_eq (statusWord_toNat _), rfl, rfl, rfl, rfl,
    rfl, rfl, rfl⟩, _, rfl⟩

/-- The default parameters are legal with any legal OUT_WORDS (00_scope.md R6, R7; 40_format_and_lut.md R96). -/
theorem withOutWords_wf {n : Nat} (h1 : 1 ≤ n) (h2 : n ≤ 2 ^ 32) : (Params.withOutWords n).wf :=
  ⟨h1, h2, rfl, rfl, rfl⟩

theorem resetWith_inv {p : Params} {m : Memory} (hp : p.wf) (hm : Memory.wf m)
    (hin : ∀ c ∈ m, c.1 < 4 * p.outWords) : (State.resetWith p m).Inv :=
  ⟨hp, rfl, fun _ => ⟨rfl, rfl, rfl, rfl⟩, hm, hin⟩

/-- Settles O42: State.reset is the case of the default parameters and an empty OUTMEM list. -/
theorem resetStateIsLegal : Obligations.ResetStateIsLegal :=
  ⟨resetWith_inv (withOutWords_wf (by decide) (by decide)) List.Pairwise.nil fun _ h => absurd h List.not_mem_nil,
    fun _ _ => resetWith_inv⟩

end Sys2Proof.Machine

/-! ## PROOFS. Byte order and the output memory (20_memory.md) -/

namespace Sys2Proof.Machine

open Sys2Proof.Claims

/-! ### The OutWrites of a DECODE_BLOCK: the highest texel of an address wins -/

/-- A DECODE_BLOCK in range with no error pending makes the OutWrites of its clip (41_block_decode.md R100). -/
theorem exec_decodeBlock_inBounds {s : State} {vw vh : Nat} (he : s.err = .none)
    (hb : last s vw vh < s.params.outWords) :
    exec (.decodeBlock vw vh) s = .next (s.outWrites (s.texelWrites vw vh)) := by
  have hin : s.inBounds vw vh = true := inBounds_iff.2 hb
  simp [exec, execDecodeBlock, State.decodeBlock, he, hin]

/-- The clip's texels up to a member and past it: every one past it is higher (20_memory.md R52). -/
theorem clipTexels_split {vw vh i : Nat} (hi : i ∈ clipTexels vw vh) :
    ∃ lower higher, clipTexels vw vh = lower ++ i :: higher ∧ ∀ j ∈ higher, i < j := by
  obtain ⟨lower, higher, e⟩ := List.append_of_mem hi
  have hs := clipTexels_sorted vw vh
  rw [e] at hs
  exact ⟨lower, higher, e, (List.pairwise_cons.1 (List.pairwise_append.1 hs).2.1).1⟩

/-- A texel of the clip whose address no higher texel has is left in OUTMEM, byte by byte (20_memory.md R52). -/
theorem byte?_texelWrites_highest {s : State} {vw vh i k : Nat} (hi : Clipped vw vh i)
    (hlast : ∀ j, i < j → Clipped vw vh j → address s j ≠ address s i) (hk : k < 4) (m : Memory) :
    Memory.byte? (Memory.writeWords m (s.texelWrites vw vh)) (4 * address s i + k) = some (byteOf (s.pixel i) k) := by
  obtain ⟨lower, higher, e, hhigher⟩ := clipTexels_split (mem_clipTexels.2 hi)
  have hother : ∀ w ∈ higher.map fun j => (s.texelAddress j, s.pixel j), address s i ≠ w.1 := by
    intro w hw
    obtain ⟨j, hj, rfl⟩ := List.mem_map.1 hw
    exact (hlast j (hhigher j hj) (mem_clipTexels.1 (by rw [e]; simp [hj]))).symm
  rw [State.texelWrites, e, List.map_append, List.map_cons]
  have h := byte?_writeWords_last (ws := lower.map fun j => (s.texelAddress j, s.pixel j)) (v := s.pixel i)
    (show (4 * address s i + k) / 4 = address s i by omega) hother m
  rwa [show (4 * address s i + k) % 4 = k by omega] at h

/-- Two texels of a clip share an address only when a row is wider than the stride (20_memory.md R52). -/
theorem stride_lt_of_address_eq {s : State} {vw vh i j : Nat} (hi : Clipped vw vh i) (hj : Clipped vw vh j)
    (hij : i < j) (h : address s i = address s j) : s.stride.toNat < vw := by
  obtain ⟨-, -, hci⟩ := hi
  obtain ⟨-, -, hcj⟩ := hj
  simp only [address] at h
  rcases Nat.lt_or_eq_of_le (Nat.div_le_div_right (c := 4) hij.le) with hrow | hrow
  · have hstep : (i / 4 + 1) * s.stride.toNat ≤ j / 4 * s.stride.toNat := Nat.mul_le_mul_right _ hrow
    rw [Nat.add_one_mul] at hstep
    omega
  · rw [hrow] at h
    omega

/-- With STRIDE = 0 all rows share their addresses, and a column is left as the last row inside the clip has it
(41_block_decode.md R111). -/
theorem readWord_texelWrites_of_stride_zero {s : State} {vw vh c : Nat} (hh : 1 ≤ vh) (hh4 : vh ≤ 4) (hw : vw ≤ 4)
    (hst : s.stride = 0) (hc : c < vw) (m : Memory) :
    Memory.readWord (Memory.writeWords m (s.texelWrites vw vh)) (s.dst.toNat + c) = s.pixel (4 * (vh - 1) + c) := by
  have haddr : ∀ i, address s i = s.dst.toNat + i % 4 := fun i => by simp [address, hst]
  have hlast : ∀ j, 4 * (vh - 1) + c < j → Clipped vw vh j → address s j ≠ address s (4 * (vh - 1) + c) := by
    rintro j hj ⟨-, hrow, -⟩
    rw [haddr, haddr]
    omega
  have hclip : Clipped vw vh (4 * (vh - 1) + c) := ⟨by omega, by omega, by omega⟩
  rw [show s.dst.toNat + c = address s (4 * (vh - 1) + c) by rw [haddr]; omega]
  exact readWord_of_bytes fun k hk => byte?_texelWrites_highest hclip hlast hk m

/-- Settles O27: the OutWrites ascend, so a byte of the highest texel of an address is written last. -/
theorem highestTexelWins : Obligations.HighestTexelWins := by
  intro s vw vh hwf he hb
  obtain ⟨-, hw, hh, hh4⟩ := wf_decodeBlock hwf
  exact ⟨_, exec_decodeBlock_inBounds he hb, rfl,
    fun i hi hlast k hk => byte?_texelWrites_highest hi hlast hk _,
    fun hst c hc => readWord_texelWrites_of_stride_zero hh hh4 hw hst hc _,
    fun i j hi hj => stride_lt_of_address_eq hi hj⟩

/-! ### A racing read -/

/-- A word of OUTMEM after a list of OutWrites is the old one when none of them goes there, and otherwise the word of
one of those that do (20_memory.md R43). -/
theorem readWord_writeWords_cases (m : Memory) (ws : List (Nat × Word)) (a : Nat) :
    ((∀ c ∈ ws, c.1 ≠ a) ∧ Memory.readWord (Memory.writeWords m ws) a = Memory.readWord m a) ∨
      ∃ c ∈ ws, c.1 = a ∧ Memory.readWord (Memory.writeWords m ws) a = c.2 := by
  induction ws generalizing m with
  | nil => exact .inl ⟨fun _ h => absurd h List.not_mem_nil, rfl⟩
  | cons d ws ih =>
    obtain ⟨b, v⟩ := d
    rw [writeWords_cons]
    rcases ih (Memory.writeWord m b v) with ⟨hnone, e⟩ | ⟨c, hc, hca, e⟩
    · by_cases hba : b = a
      · subst hba
        exact .inr ⟨(b, v), List.mem_cons_self, rfl, e.trans (readWord_of_bytes fun k => byte?_writeWord_same m b v)⟩
      · refine .inl ⟨List.forall_mem_cons.2 ⟨hba, hnone⟩, e.trans (readWord_congr fun k hk => ?_)⟩
        rw [byte?_writeWord, if_neg (by omega)]
    · exact .inr ⟨c, List.mem_cons_of_mem _ hc, hca, e⟩

/-- The OutWrites of a CMD write are the texels it writes, each with its pixel (41_block_decode.md R107). -/
theorem mem_wordWrites_iff_writesTexel {s : State} {w : Word} {c : Nat × Word} :
    c ∈ s.wordWrites w ↔ ∃ i, WritesTexel s w i c.1 ∧ c.2 = s.pixel i := by
  constructor
  · intro h
    obtain ⟨vw, vh, i, hd, he, hb, hi, rfl⟩ := mem_wordWrites.1 h
    exact ⟨i, ⟨vw, vh, hd, he, inBounds_iff.1 hb, mem_clipTexels.1 hi, rfl⟩, rfl⟩
  · rintro ⟨i, ⟨vw, vh, hd, he, hb, hi, ha⟩, hv⟩
    exact mem_wordWrites.2 ⟨vw, vh, i, hd, he, inBounds_iff.2 hb, mem_clipTexels.2 hi, Prod.ext ha.symm hv⟩

/-- The word of a racing read is the old word or that of one texel written there (20_memory.md R53). -/
theorem racingWord_cases (s : State) (w : Word) (a : Nat) :
    s.racingWord w a = Memory.readWord s.outmem a ∨ ∃ i, WritesTexel s w i a ∧ s.racingWord w a = s.pixel i := by
  rcases readWord_writeWords_cases s.outmem (s.partialWrites w) a with ⟨-, e⟩ | ⟨c, hc, rfl, e⟩
  · exact .inl e
  · obtain ⟨i, hi, hp⟩ := mem_wordWrites_iff_writesTexel.1 (List.mem_of_mem_take hc)
    exact .inr ⟨i, hi, e.trans hp⟩

/-- Where a command writes one texel only, it leaves that texel's pixel. -/
theorem readWord_wordWrites_of_unique {s : State} {w : Word} {a i : Nat} (hi : WritesTexel s w i a)
    (hone : ∀ i j, WritesTexel s w i a → WritesTexel s w j a → i = j) (m : Memory) :
    Memory.readWord (Memory.writeWords m (s.wordWrites w)) a = s.pixel i := by
  rcases readWord_writeWords_cases m (s.wordWrites w) a with ⟨hnone, -⟩ | ⟨c, hc, rfl, e⟩
  · exact absurd rfl (hnone (a, s.pixel i) (mem_wordWrites_iff_writesTexel.2 ⟨i, hi, rfl⟩))
  · obtain ⟨j, hj, hp⟩ := mem_wordWrites_iff_writesTexel.1 hc
    rw [e, hp, hone j i hj hi]

/-- Settles O46: the racing word is read after the first few of the OutWrites that the whole command makes. -/
theorem racingReadSeesOldOrNew : Obligations.RacingReadSeesOldOrNew := by
  intro s w a rest ⟨hv, hs⟩ ha
  obtain ⟨t, ht, hstep⟩ := readOutDuring_eq (w := w) (s := s.withScript rest) ha
  have hcases := racingWord_cases (s.withScript rest) w a
  refine ⟨t, (s.withScript rest).racingWord w a, ht, (step_perform hv hs).trans hstep, hcases, fun hone => ?_⟩
  rcases hcases with hold | ⟨i, hi, hnew⟩
  · exact .inl hold
  · right
    rw [hnew, writeCmd_outmem ht]
    exact (readWord_wordWrites_of_unique (s := (s.withScript rest).drawn) hi hone s.outmem).symm

/-! ### Little-endian fields, and ldblk -/

/-- A step that writes one of the six word registers (43_control.md R153). -/
theorem step_wrAction {s : State} {r : Reg} {v : Word} {rest : List HostAction} (hc : r ≠ .cmd) (hst : r ≠ .status)
    (hv : s.lutValid = true) (hs : s.script = wrAction r v :: rest) :
    step s = .next ((s.withScript rest).setReg r v) := by
  rw [step_perform hv hs, wrAction, perform, writeReg, reg?_access]
  cases r with
  | cmd => exact absurd rfl hc
  | status => exact absurd rfl hst
  | _ => rfl

/-- LE32 is the word of four bytes, the first the least significant (20_memory.md R40). -/
theorem le32_eq_wordOf (b : List Byte) (o : Nat) :
    le32 b o = wordOf (bufferByte b o) (bufferByte b (o + 1)) (bufferByte b (o + 2)) (bufferByte b (o + 3)) := by
  rw [wordOf, BitVec.append_assoc, BitVec.cast_eq]
  rfl

/-- The bytes of LE32 are those of the buffer (20_memory.md R40). -/
theorem byteOf_le32 (b : List Byte) (o : Nat) :
    byteOf (le32 b o) 0 = bufferByte b o ∧ byteOf (le32 b o) 1 = bufferByte b (o + 1) ∧
      byteOf (le32 b o) 2 = bufferByte b (o + 2) ∧ byteOf (le32 b o) 3 = bufferByte b (o + 3) := by
  rw [le32_eq_wordOf]
  exact byteOf_wordOf _ _ _ _

/-- The halves of LE32 (20_memory.md R40). -/
theorem le32_halves (b : List Byte) (o : Nat) :
    (le32 b o).extractLsb' 0 16 = le16 b o ∧ (le32 b o).extractLsb' 16 16 = le16 b (o + 2) := by
  have h := (le16 b o).isLt
  have h' := (le16 b (o + 2)).isLt
  constructor <;> apply BitVec.eq_of_toNat_eq <;>
    rw [BitVec.extractLsb'_toNat, le32, BitVec.toNat_append, shiftLeft_or_eq _ _ _ h, Nat.shiftRight_eq_div_pow] <;>
    omega

/-- A list is read byte by byte from its start to its end. -/
theorem map_bufferByte_range (b : List Byte) : (List.range b.length).map (bufferByte b) = b := by
  refine List.ext_getElem (by simp) fun n _ h => ?_
  simp [bufferByte, List.getElem?_eq_getElem h]

/-- Four steps of ldblk load the four block registers (30_encoding.md R69). -/
theorem run_ldblk {s : State} {b : List Byte} {rest : List HostAction} (hv : s.lutValid = true)
    (hs : s.script = (ScriptLine.ldblk b).expand ++ rest) :
    Host.Core.run Sys2Proof.core 4 s = .next { s with
      script := rest, blk0 := le32 b 0, blk1 := le32 b 4, blk2 := le32 b 8, blk3 := le32 b 12 } := by
  calc Host.Core.run Sys2Proof.core 4 s
      = _ := run_succ (step_wrAction (r := .blk0) (by decide) (by decide) hv hs) 3
    _ = _ := run_succ (step_wrAction (r := .blk1) (by decide) (by decide) (by exact hv) (by rfl)) 2
    _ = _ := run_succ (step_wrAction (r := .blk2) (by decide) (by decide) (by exact hv) (by rfl)) 1
    _ = _ := run_succ (step_wrAction (r := .blk3) (by decide) (by decide) (by exact hv) (by rfl)) 0

/-- Registers that hold the fields of a 16-byte block hold its bytes (10_state.md R21). -/
theorem heldBlock_of_le32 {t : State} {b : List Byte} (hb : b.length = 16) (h0 : t.blk0 = le32 b 0)
    (h1 : t.blk1 = le32 b 4) (h2 : t.blk2 = le32 b 8) (h3 : t.blk3 = le32 b 12) : heldBlock t = b := by
  have hbytes : heldBlock t = (List.range 16).map (bufferByte b) := by
    simp only [heldBlock, h0, h1, h2, h3, byteOf_le32]
    rfl
  rw [hbytes, ← hb, map_bufferByte_range]

/-- Settles O47: LE16 to LE64 append bytes, and four register writes load the block. -/
theorem loadBlockPacksLittleEndian : Obligations.LoadBlockPacksLittleEndian := by
  refine ⟨fun b o => ⟨fun _ => ?_, fun _ => ?_, fun _ => ?_⟩, fun s b rest hb hv hs => ?_⟩
  · rw [le16, BitVec.toNat_append, Nat.lor_comm]
    rfl
  · rw [le32, BitVec.toNat_append, Nat.lor_comm]
  · rw [le64, BitVec.toNat_append, Nat.lor_comm]
  · exact ⟨_, run_ldblk hv hs, rfl, rfl, (le32_halves b 8).1, (le32_halves b 8).2, rfl,
      heldBlock_of_le32 hb rfl rfl rfl rfl⟩

/-! ### The bytes of a pixel -/

/-- The alpha byte of texel i of the held block (40_format_and_lut.md R88; 41_block_decode.md R104). -/
def State.alphaByte (s : State) (i : Nat) : Byte := alphaRamp (s.alphaCode i)

/-- The red byte of texel i of the held block (40_format_and_lut.md R90; 41_block_decode.md R102). -/
def State.redByte (s : State) (i : Nat) : Byte :=
  palette5 s.params (red565 s.color0) (red565 s.color1) (s.colorIndex i)

/-- The green byte of texel i of the held block. -/
def State.greenByte (s : State) (i : Nat) : Byte :=
  palette6 s.params (green565 s.color0) (green565 s.color1) (s.colorIndex i)

/-- The blue byte of texel i of the held block. -/
def State.blueByte (s : State) (i : Nat) : Byte :=
  palette5 s.params (blue565 s.color0) (blue565 s.color1) (s.colorIndex i)

/-- A pixel is the four channel bytes in the lanes of its format (41_block_decode.md R105). -/
theorem pixel_eq_lanes {s : State} (h : s.Inv) (hv : s.lutValid = true) (i : Nat) :
    s.pixel i = lane s.format.shifts.a (s.alphaByte i) ||| lane s.format.shifts.r (s.redByte i) |||
      lane s.format.shifts.g (s.greenByte i) ||| lane s.format.shifts.b (s.blueByte i) := by
  obtain ⟨ha, hr, hg, hb⟩ := h.luts hv
  simp only [State.pixel, ha, hr, hg, hb, State.ccr, State.ccg, State.ccb, index5_or_slot, index6_or_slot,
    read_buildAlut, buildRlut, buildGlut, buildBlut, read_buildLut5, read_buildLut6, h.shifts]
  rfl

theorem blockColor0_heldBlock (s : State) : blockColor0 (heldBlock s) = s.color0.toNat := by
  show (byteOf s.blk2 0).toNat + 256 * (byteOf s.blk2 1).toNat = _
  rw [byteOf_toNat, byteOf_toNat, State.color0, BitVec.extractLsb'_toNat, Nat.shiftRight_eq_div_pow]
  omega

theorem blockColor1_heldBlock (s : State) : blockColor1 (heldBlock s) = s.color1.toNat := by
  show (byteOf s.blk2 2).toNat + 256 * (byteOf s.blk2 3).toNat = _
  rw [byteOf_toNat, byteOf_toNat, State.color1, BitVec.extractLsb'_toNat, Nat.shiftRight_eq_div_pow]
  omega

/-- The first eight bytes of the held block are those of the alpha codes (41_block_decode.md R101). -/
theorem byteAt_heldBlock_alpha (s : State) {o : Nat} (ho : o < 8) :
    byteAt (heldBlock s) o = s.alphaCodes.toNat / 2 ^ (8 * o) % 256 := by
  have h0 := s.blk0.isLt
  rw [State.alphaCodes, BitVec.toNat_append, shiftLeft_or_eq _ _ _ h0]
  interval_cases o <;> refine (byteOf_toNat _ _).trans ?_ <;> omega

/-- The last four bytes of the held block are those of the colour indices (41_block_decode.md R101). -/
theorem byteAt_heldBlock_index (s : State) {o : Nat} (ho : o < 4) :
    byteAt (heldBlock s) (12 + o) = s.colorIndices.toNat / 2 ^ (8 * o) % 256 := by
  interval_cases o <;> exact byteOf_toNat _ _

/-- The alpha code of a texel is the nibble of its byte (41_block_decode.md R104). -/
theorem blockAlpha_heldBlock (s : State) {i : Nat} (hi : i < 16) :
    blockAlpha (heldBlock s) i = (s.alphaCode i).toNat := by
  rw [blockAlpha, byteAt_heldBlock_alpha s (by omega), State.alphaCode, BitVec.extractLsb'_toNat,
    Nat.shiftRight_eq_div_pow]
  have hpow : 2 ^ (4 * i) = 2 ^ (8 * (i / 2)) * 16 ^ (i % 2) := by
    rw [show (16 : Nat) = 2 ^ 4 from rfl, ← pow_mul, ← pow_add]
    congr 1
    omega
  rw [hpow, ← Nat.div_div_eq_div_mul]
  rcases Nat.mod_two_eq_zero_or_one i with hr | hr <;> rw [hr] <;> omega

/-- The colour index of a texel is the pair of bits of its byte (41_block_decode.md R104). -/
theorem blockIndex_heldBlock (s : State) {i : Nat} (hi : i < 16) :
    blockIndex (heldBlock s) i = (s.colorIndex i).toNat := by
  rw [blockIndex, byteAt_heldBlock_index s (by omega), State.colorIndex, BitVec.extractLsb'_toNat,
    Nat.shiftRight_eq_div_pow]
  have hpow : 2 ^ (2 * i) = 2 ^ (8 * (i / 4)) * 4 ^ (i % 4) := by
    rw [show (4 : Nat) = 2 ^ 2 from rfl, ← pow_mul, ← pow_add]
    congr 1
    omega
  rw [hpow, ← Nat.div_div_eq_div_mul]
  have hr : i % 4 < 4 := by omega
  interval_cases i % 4 <;> omega

theorem alphaByte_toNat (s : State) {i : Nat} (hi : i < 16) :
    (s.alphaByte i).toNat = 17 * blockAlpha (heldBlock s) i := by
  have h := (s.alphaCode i).isLt
  rw [blockAlpha_heldBlock s hi, State.alphaByte, alphaRamp, BitVec.toNat_ofNat]
  omega

/-- The slot that a texel of the held block selects. -/
theorem ofNat_blockIndex_heldBlock (s : State) {i : Nat} (hi : i < 16) :
    BitVec.ofNat 2 (blockIndex (heldBlock s) i) = s.colorIndex i := by
  rw [blockIndex_heldBlock s hi, BitVec.ofNat_toNat, BitVec.setWidth_eq]

theorem red565_eq_ofNat (c : BitVec 16) : red565 c = BitVec.ofNat 5 (c.toNat / 2048) := by
  rw [red565, BitVec.extractLsb', Nat.shiftRight_eq_div_pow]

theorem green565_eq_ofNat (c : BitVec 16) : green565 c = BitVec.ofNat 6 (c.toNat / 32) := by
  rw [green565, BitVec.extractLsb', Nat.shiftRight_eq_div_pow]

theorem blue565_eq_ofNat (c : BitVec 16) : blue565 c = BitVec.ofNat 5 c.toNat := by
  rw [blue565, BitVec.extractLsb', Nat.shiftRight_zero]

/-- The red byte is the red value of the block's bytes (41_block_decode.md R102, R106). -/
theorem redByte_toNat (s : State) {i : Nat} (hi : i < 16) :
    (s.redByte i).toNat = blockRed s.params (heldBlock s) i := by
  rw [blockRed, blockColor0_heldBlock, blockColor1_heldBlock, ofNat_blockIndex_heldBlock s hi, ← red565_eq_ofNat,
    ← red565_eq_ofNat, State.redByte]

theorem greenByte_toNat (s : State) {i : Nat} (hi : i < 16) :
    (s.greenByte i).toNat = blockGreen s.params (heldBlock s) i := by
  rw [blockGreen, blockColor0_heldBlock, blockColor1_heldBlock, ofNat_blockIndex_heldBlock s hi, ← green565_eq_ofNat,
    ← green565_eq_ofNat, State.greenByte]

theorem blueByte_toNat (s : State) {i : Nat} (hi : i < 16) :
    (s.blueByte i).toNat = blockBlue s.params (heldBlock s) i := by
  rw [blockBlue, blockColor0_heldBlock, blockColor1_heldBlock, ofNat_blockIndex_heldBlock s hi, ← blue565_eq_ofNat,
    ← blue565_eq_ofNat, State.blueByte]

/-- Settles O25: a pixel is the word of its four channel bytes, in each of the four orders. -/
theorem pixelBytesSpellTheFormat : Obligations.PixelBytesSpellTheFormat := by
  refine ⟨fun m a k v hk => ⟨byteOf v k, byte?_writeWord_same m a v hk, byteOf_toNat v k⟩, fun s i h hv hi => ?_⟩
  rw [pixel_eq_lanes h hv, lanes_eq_wordOf, ← alphaByte_toNat s hi, ← redByte_toNat s hi, ← greenByte_toNat s hi,
    ← blueByte_toNat s hi]
  cases s.format <;> simp only [byteOf_wordOf]

end Sys2Proof.Machine

/-! ## PROOFS. The encoding of the commands (30_encoding.md) -/

namespace Sys2Proof.Machine

open Sys2Proof.Claims

/-! ### The opcode map's masks, the fields and the encoder, on numbers -/

/-- A mask of all bits but [m-1:n] keeps a number's bits above and below the gap. -/
theorem and_gapMask (x k : Nat) {n m : Nat} (h : n ≤ m) :
    x &&& (2 ^ m * (2 ^ k - 1) + (2 ^ n - 1)) = 2 ^ m * (x / 2 ^ m % 2 ^ k) + x % 2 ^ n := by
  have hnm : 2 ^ n ≤ 2 ^ m := Nat.pow_le_pow_right (by decide) h
  have hn : 0 < 2 ^ n := Nat.two_pow_pos n
  have hx : x % 2 ^ n < 2 ^ n := Nat.mod_lt x hn
  refine Nat.eq_of_testBit_eq fun i => ?_
  rw [Nat.testBit_and, Nat.testBit_two_pow_mul_add _ (by omega), Nat.testBit_two_pow_mul_add _ (by omega)]
  by_cases hi : i < m
  · simp [hi, Nat.testBit_mod_two_pow, Bool.and_comm]
  · simp [hi, Nat.testBit_mod_two_pow, Nat.testBit_div_two_pow, Nat.sub_add_cancel (Nat.not_lt.1 hi), Bool.and_comm]

/-- The full mask of the rows of NOP and CLEAR_ERR keeps the whole word (30_encoding.md R65). -/
theorem fullMask_iff {w p : Word} : w &&& 0xFFFFFFFF = p ↔ w.toNat = p.toNat := by
  have hw : w &&& 0xFFFFFFFF = w := BitVec.and_allOnes
  rw [hw, BitVec.toNat_inj]

/-- The row of SET_FORMAT: every bit but [15:8] is fixed (30_encoding.md R65). -/
theorem setFormatRow_iff {w : Word} :
    w &&& 0xFFFF00FF = 0x00000001 ↔ w.toNat % 2 ^ 8 = 1 ∧ w.toNat / 2 ^ 16 = 0 := by
  have hand : (w &&& 0xFFFF00FF).toNat = 2 ^ 16 * (w.toNat / 2 ^ 16 % 2 ^ 16) + w.toNat % 2 ^ 8 :=
    and_gapMask w.toNat 16 (n := 8) (m := 16) (by decide)
  have hw : w.toNat < 2 ^ 32 := w.isLt
  rw [← BitVec.toNat_inj, hand]
  change _ = 1 ↔ _
  omega

/-- The row of DECODE_BLOCK: every bit but [11:8] is fixed (30_encoding.md R65). -/
theorem decodeBlockRow_iff {w : Word} :
    w &&& 0xFFFFF0FF = 0x00000002 ↔ w.toNat % 2 ^ 8 = 2 ∧ w.toNat / 2 ^ 12 = 0 := by
  have hand : (w &&& 0xFFFFF0FF).toNat = 2 ^ 12 * (w.toNat / 2 ^ 12 % 2 ^ 20) + w.toNat % 2 ^ 8 :=
    and_gapMask w.toNat 20 (n := 8) (m := 12) (by decide)
  have hw : w.toNat < 2 ^ 32 := w.isLt
  rw [← BitVec.toNat_inj, hand]
  change _ = 2 ↔ _
  omega

theorem fmtselField_toNat (w : Word) : (fmtselField w).toNat = w.toNat / 2 ^ 8 % 2 ^ 8 := by
  rw [fmtselField, BitVec.extractLsb'_toNat, Nat.shiftRight_eq_div_pow]

theorem clipWidthField_eq (w : Word) : clipWidthField w = w.toNat / 2 ^ 8 % 4 + 1 := by
  rw [clipWidthField, BitVec.extractLsb'_toNat, Nat.shiftRight_eq_div_pow]

theorem clipHeightField_eq (w : Word) : clipHeightField w = w.toNat / 2 ^ 10 % 4 + 1 := by
  rw [clipHeightField, BitVec.extractLsb'_toNat, Nat.shiftRight_eq_div_pow]

/-- A field put above the bits of a word adds its value there. -/
theorem or_shiftLeft_toNat {x v : Word} {n : Nat} (hx : x.toNat < 2 ^ n) (hv : v.toNat * 2 ^ n < 2 ^ 32) :
    (x ||| v <<< n).toNat = x.toNat + v.toNat * 2 ^ n := by
  have hmod : v.toNat <<< n % 2 ^ 32 = v.toNat <<< n := Nat.mod_eq_of_lt (by rwa [Nat.shiftLeft_eq])
  rw [BitVec.toNat_or, BitVec.toNat_shiftLeft, hmod, Nat.or_comm, shiftLeft_or_eq _ _ _ hx, Nat.add_comm]

/-- Format F (30_encoding.md R61, R62). -/
theorem encode_setFormat_toNat (f : BitVec 8) : (encode (.setFormat f)).toNat = 1 + f.toNat * 2 ^ 8 := by
  have hf : (f.setWidth 32).toNat = f.toNat := BitVec.toNat_setWidth_of_le (by decide)
  rw [encode, or_shiftLeft_toNat (by decide) (by omega), hf]
  rfl

/-- Format D (30_encoding.md R61, R63). -/
theorem encode_decodeBlock_toNat {vw vh : Nat} (hw : vw ≤ 4) (hh : vh ≤ 4) :
    (encode (.decodeBlock vw vh)).toNat = 2 + (vw - 1) * 2 ^ 8 + (vh - 1) * 2 ^ 10 := by
  have hvw : (BitVec.ofNat 32 (vw - 1)).toNat = vw - 1 := Nat.mod_eq_of_lt (by omega)
  have hvh : (BitVec.ofNat 32 (vh - 1)).toNat = vh - 1 := Nat.mod_eq_of_lt (by omega)
  have hlow : ((0x00000002 : Word) ||| BitVec.ofNat 32 (vw - 1) <<< 8).toNat = 2 + (vw - 1) * 2 ^ 8 := by
    rw [or_shiftLeft_toNat (by decide) (by omega), hvw]
    rfl
  change ((0x00000002 : Word) ||| BitVec.ofNat 32 (vw - 1) <<< 8 ||| BitVec.ofNat 32 (vh - 1) <<< 10).toNat = _
  rw [or_shiftLeft_toNat (by omega) (by omega), hlow, hvh]

/-! ### Decoding: the rows of the opcode map -/

/-- The decoder's four answers, in both directions: the word matches the command's row, and the operands are its
fields (30_encoding.md R65). -/
theorem decode_eq_ok_iff {w : Word} {i : Instr} :
    decode w = .ok i ↔
    (w &&& 0xFFFFFFFF = 0x00000000 ∧ i = .nop) ∨
    (w &&& 0xFFFF00FF = 0x00000001 ∧ i = .setFormat (fmtselField w)) ∨
    (w &&& 0xFFFFF0FF = 0x00000002 ∧ i = .decodeBlock (clipWidthField w) (clipHeightField w)) ∨
    (w &&& 0xFFFFFFFF = 0x00000003 ∧ i = .clearErr) := by
  refine ⟨decode_cases, ?_⟩
  rintro (⟨h, rfl⟩ | ⟨h, rfl⟩ | ⟨h, rfl⟩ | ⟨h, rfl⟩)
  · exact decode_of_hits (r := ⟨.nop, 0x00000000, 0xFFFFFFFF⟩) (by decide) (beq_iff_eq.2 h)
  · exact decode_of_hits (r := ⟨.setFormat, 0x00000001, 0xFFFF00FF⟩) (by decide) (beq_iff_eq.2 h)
  · exact decode_of_hits (r := ⟨.decodeBlock, 0x00000002, 0xFFFFF0FF⟩) (by decide) (beq_iff_eq.2 h)
  · exact decode_of_hits (r := ⟨.clearErr, 0x00000003, 0xFFFFFFFF⟩) (by decide) (beq_iff_eq.2 h)

/-- The words that are commands, as numbers (30_encoding.md R65, R66). -/
theorem exists_decode_eq_ok_iff {w : Word} :
    (∃ i, decode w = .ok i) ↔
      w.toNat = 0 ∨ (w.toNat % 2 ^ 8 = 1 ∧ w.toNat / 2 ^ 16 = 0) ∨
      (w.toNat % 2 ^ 8 = 2 ∧ w.toNat / 2 ^ 12 = 0) ∨ w.toNat = 3 := by
  simp only [decode_eq_ok_iff, exists_or, exists_eq_right, fullMask_iff, setFormatRow_iff,
    decodeBlockRow_iff]
  rfl

/-- Settles O2: a well-formed command's encoding, as a number, matches the command's row and holds its operands. -/
theorem decodeOfEncodeIsIdentity : Obligations.DecodeOfEncodeIsIdentity := by
  intro i hi
  rw [decode_eq_ok_iff]
  cases i with
  | nop => exact .inl ⟨rfl, rfl⟩
  | setFormat f =>
    have he := encode_setFormat_toNat f
    have hf : f.toNat < 2 ^ 8 := f.isLt
    have hfield : f = fmtselField (encode (.setFormat f)) :=
      BitVec.eq_of_toNat_eq (by rw [fmtselField_toNat]; omega)
    exact .inr (.inl ⟨setFormatRow_iff.2 (by omega), congrArg _ hfield⟩)
  | decodeBlock vw vh =>
    obtain ⟨hw1, hw4, hh1, hh4⟩ := wf_decodeBlock hi
    have he := encode_decodeBlock_toNat hw4 hh4
    have hvw : vw = clipWidthField (encode (.decodeBlock vw vh)) := by rw [clipWidthField_eq]; omega
    have hvh : vh = clipHeightField (encode (.decodeBlock vw vh)) := by rw [clipHeightField_eq]; omega
    exact .inr (.inr (.inl ⟨decodeBlockRow_iff.2 (by omega), congrArg₂ _ hvw hvh⟩))
  | clearErr => exact .inr (.inr (.inr ⟨rfl, rfl⟩))

/-- Settles O3: the decoder's answers, read for one command each. -/
theorem wordIsCommandOfItsRow : Obligations.WordIsCommandOfItsRow := by
  intro w
  simp [decode_eq_ok_iff]

/-- Settles O4: an operand is the field that its row reads. -/
theorem decodedOperandsAreTheFields : Obligations.DecodedOperandsAreTheFields := by
  refine fun w => ⟨fun f h => ?_, fun vw vh h => ?_⟩
  · obtain ⟨-, h⟩ | ⟨-, h⟩ | ⟨-, h⟩ | ⟨-, h⟩ := decode_cases h <;> cases h
    exact fmtselField_toNat w
  · obtain ⟨-, h⟩ | ⟨-, h⟩ | ⟨-, h⟩ | ⟨-, h⟩ := decode_cases h <;> cases h
    exact ⟨clipWidthField_eq w, clipHeightField_eq w⟩

/-- Settles O5: a word is the sum of the bits its row fixes and of its fields, the number its command encodes to. -/
theorem encodeOfDecodeIsIdentity : Obligations.EncodeOfDecodeIsIdentity := by
  refine fun w i h => ⟨decode_wf h, BitVec.eq_of_toNat_eq ?_⟩
  obtain ⟨hr, rfl⟩ | ⟨hr, rfl⟩ | ⟨hr, rfl⟩ | ⟨hr, rfl⟩ := decode_cases h
  · exact (fullMask_iff.1 hr).symm
  · rw [setFormatRow_iff] at hr
    rw [encode_setFormat_toNat, fmtselField_toNat]
    omega
  · rw [decodeBlockRow_iff] at hr
    have hw := clipWidthField_eq w
    have hh := clipHeightField_eq w
    rw [encode_decodeBlock_toNat (by omega) (by omega)]
    omega
  · exact (fullMask_iff.1 hr).symm

/-- Settles O1: each word is evaluated. -/
theorem sampleWordsDecode : Obligations.SampleWordsDecode := by
  refine ⟨?_, ?_, ?_, ?_, ?_, ?_, ?_, ?_⟩ <;> decide

/-! ### Issuing a command -/

/-- The step at a CMD write of an illegal word records ILLEGAL_CMD and nothing else (30_encoding.md R66). -/
theorem step_illegal {s : State} {w : Word} {rest : List HostAction} {r : Reject}
    (h : About s (.write Reg.cmd.access w) rest) (hd : decode w = .error r) :
    step s = .next { s with script := rest, err := if s.err = .none then .illegalCmd else s.err } := by
  obtain ⟨hv, hs⟩ := h
  rw [step_cmd hv hs, writeCmd, hd, ← record_eq]
  rfl

/-- Settles O6: the CMD write of a word that decodes is exec. -/
theorem stepRunsDecodedCommand : Obligations.StepRunsDecodedCommand := by
  intro s w rest i ⟨hv, hs⟩ hd
  rw [step_cmd hv hs, writeCmd, hd]
  rfl

/-- Settles O8: on numbers, the words listed are those that are no command. -/
theorem illegalWordRaisesIllegalCmd : Obligations.IllegalWordRaisesIllegalCmd := by
  refine fun s w rest h => ⟨fun hill => ?_, fun hleg => ?_⟩
  · cases hd : decode w with
    | ok i =>
      have hok := exists_decode_eq_ok_iff.1 ⟨i, hd⟩
      omega
    | error r => exact step_illegal h hd
  · rw [exists_decode_eq_ok_iff]
    omega

/-- While an error is pending every command but NOP and CLEAR_ERR is discarded (60_exceptions.md R163). -/
theorem exec_discarded {i : Instr} {s : State} (he : s.err ≠ .none) (hc : i ≠ .clearErr) : exec i s = .next s := by
  rcases exec_cases i s with e | ⟨h, -⟩ | ⟨_, -, h, -⟩ | ⟨_, _, -, h, -⟩ | ⟨_, _, -, h, -⟩
  · exact e
  · exact absurd h hc
  all_goals exact absurd h he

/-- Settles O9: the three branches of R67 in their order. -/
theorem cmdWriteDecodeOrder : Obligations.CmdWriteDecodeOrder := by
  refine fun s w rest h => ⟨fun hrow => step_illegal h (decode_none hrow), fun i hd he _ hc => ?_, fun i hd _ => ?_⟩
  · rw [stepRunsDecodedCommand s w rest i h hd]
    exact exec_discarded he hc
  · exact stepRunsDecodedCommand s w rest i h hd

/-! ### FMTSEL, and the pseudo-instructions -/

theorem exec_setFormat {s : State} (he : s.err = .none) (f : BitVec 8) :
    exec (.setFormat f) s = .next (s.selectFormat (resolveFormat f)) := by
  simp [exec, execSetFormat, he]

@[simp] theorem selectFormat_format (s : State) (f : PixelFormat) : (s.selectFormat f).format = f := by
  rcases selectFormat_cases s f with ⟨e, -, hf⟩ | e <;> rw [e]
  · exact hf
  · rfl

@[simp] theorem selectFormat_err (s : State) (f : PixelFormat) : (s.selectFormat f).err = s.err := by
  rcases selectFormat_cases s f with ⟨e, -, -⟩ | e <;> rw [e]
  rfl

/-- A FMTSEL of 0 to 3 is a format's code (30_encoding.md R62; 10_state.md R24). -/
theorem resolveFormat_code {f : BitVec 8} (h : f.toNat ≤ 3) : (resolveFormat f).code.toNat = f.toNat := by
  have hf : f = 0 ∨ f = 1 ∨ f = 2 ∨ f = 3 := by bv_omega
  rcases hf with rfl | rfl | rfl | rfl <;> rfl

/-- A FMTSEL of 4 or more is BGRA (30_encoding.md R62). -/
theorem resolveFormat_fallback {f : BitVec 8} (h : 4 ≤ f.toNat) : resolveFormat f = .bgra := by
  have h1 : f ≠ 1 := by bv_omega
  have h2 : f ≠ 2 := by bv_omega
  have h3 : f ≠ 3 := by bv_omega
  rw [resolveFormat, if_neg h1, if_neg h2, if_neg h3, ite_self]

/-- Settles O14: SET_FORMAT leaves the resolved format and ERR as it is. -/
theorem fmtselResolves : Obligations.FmtselResolves := by
  intro s f he
  refine ⟨_, exec_setFormat he f, by rw [selectFormat_err, he], fun h => ?_, fun h => ?_⟩
  · rw [selectFormat_format, resolveFormat_code h]
  · rw [selectFormat_format, resolveFormat_fallback h]

/-- Settles O48: each expansion is that of R69. -/
theorem pseudoInstructionsExpand : Obligations.PseudoInstructionsExpand :=
  ⟨rfl, fun _ => rfl, fun _ _ => rfl⟩

end Sys2Proof.Machine

/-! ## PROOFS. SET_FORMAT, the LUTs and the palette (40_format_and_lut.md), and what every step answers
(70_reset_and_hazards.md) -/

namespace Sys2Proof.Machine

open Sys2Proof.Claims

/-! ### SET_FORMAT: the format it selects, the rebuild, and the round trip -/

/-- The model resolves FMTSEL as 30_encoding.md R62 does. -/
theorem resolveFormat_eq_formatOf (f : BitVec 8) : resolveFormat f = formatOf f := by
  by_cases h : f.toNat ≤ 3
  · have hf : f = 0 ∨ f = 1 ∨ f = 2 ∨ f = 3 := by bv_omega
    rcases hf with rfl | rfl | rfl | rfl <;> rfl
  · rw [resolveFormat_fallback (by omega), formatOf]
    split
    · omega
    · omega
    · omega
    · rfl

theorem exec_setFormat_formatOf {s : State} (he : s.err = .none) (f : BitVec 8) :
    exec (.setFormat f) s = .next (s.selectFormat (formatOf f)) := by
  rw [exec_setFormat he, resolveFormat_eq_formatOf]

/-- SET_FORMAT of another format, or before any LUT exists, loads the format and rebuilds (40_format_and_lut.md R82). -/
theorem selectFormat_of_change {s : State} {f : PixelFormat} (h : s.lutValid = false ∨ f ≠ s.format) :
    s.selectFormat f = (s.loadFormat f).rebuildLuts := if_pos h

/-- SET_FORMAT of the active format over valid LUTs changes nothing (40_format_and_lut.md R82). -/
theorem selectFormat_of_active {s : State} {f : PixelFormat} (hv : s.lutValid = true) (hf : f = s.format) :
    s.selectFormat f = s := if_neg (by simp [hv, hf])

/-- Settles O13: the two branches of the body of SET_FORMAT, and FORMAT as a field of STATUS. -/
theorem setFormatSelectsAndRebuilds : Obligations.SetFormatSelectsAndRebuilds := by
  refine fun s f he => ⟨_, exec_setFormat_formatOf he f, selectFormat_of_change, fun ⟨hv, hf⟩ => ?_, ?_⟩
  · exact selectFormat_of_active hv hf
  · rw [(statusWord_fields _).1, selectFormat_format]

/-- A rebuild over LUTs that are already built for the shifts writes the values they hold (40_format_and_lut.md
R86). -/
theorem rebuildLuts_eq_self {s : State} (hb : s.lutsBuilt) (hv : s.lutValid = true) : s.rebuildLuts = s := by
  obtain ⟨ha, hr, hg, hb⟩ := hb
  rw [State.rebuildLuts, ← ha, ← hr, ← hg, ← hb, ← hv]

/-- Settles O16: neither the command nor a rebuild changes a legal state. -/
theorem sameFormatRebuildUnobservable : Obligations.SameFormatRebuildUnobservable := by
  refine fun s f hi hv he hf => ⟨?_, rebuildLuts_eq_self (hi.luts hv) hv⟩
  rw [exec_setFormat_formatOf he, selectFormat_of_active hv hf]

/-- Loading the active format again keeps the shifts, which are its row already (10_state.md R25). -/
theorem State.Inv.loadFormat_format {s : State} (h : s.Inv) : s.loadFormat s.format = s := by
  rw [State.loadFormat, ← h.shifts]

/-- Selecting another format and then the first again restores the whole state: the last rebuild sees the shifts and
the parameters of the first (40_format_and_lut.md R86). -/
theorem State.Inv.selectFormat_roundTrip {s : State} (h : s.Inv) (hv : s.lutValid = true) (f : PixelFormat) :
    (s.selectFormat f).selectFormat s.format = s := by
  by_cases hf : f = s.format
  · rw [selectFormat_of_active hv hf, selectFormat_of_active hv rfl]
  · calc (s.selectFormat f).selectFormat s.format
        = ((s.loadFormat f).rebuildLuts.loadFormat s.format).rebuildLuts := by
          rw [selectFormat_of_change (.inr hf)]
          exact selectFormat_of_change (.inr (Ne.symm hf))
      _ = (s.loadFormat s.format).rebuildLuts := rfl
      _ = s.rebuildLuts := by rw [h.loadFormat_format]
      _ = s := rebuildLuts_eq_self (h.luts hv) hv

/-- Settles O17: the build reads the shifts and the parameters alone, and the round trip restores the state. -/
theorem formatRoundTripRestores : Obligations.FormatRoundTripRestores := by
  refine ⟨fun s s' hs hp => ?_, fun s => rebuildLuts_eq_self ⟨rfl, rfl, rfl, rfl⟩ rfl, fun s y x hi hv he hx => ?_⟩
  · simp only [State.rebuildLuts_alut, State.rebuildLuts_rlut, State.rebuildLuts_glut, State.rebuildLuts_blut, hs, hp,
      and_self]
  · refine ⟨_, exec_setFormat_formatOf he y, selectFormat_format _ _, ?_⟩
    rw [exec_setFormat_formatOf (by rw [selectFormat_err, he]), hx, hi.selectFormat_roundTrip hv]

/-- Settles O15: the rows of the table one by one. -/
theorem shiftTableRows : Obligations.ShiftTableRows := by
  refine ⟨⟨rfl, rfl, rfl, rfl⟩, fun f => ?_, fun f => ?_⟩
  · cases f <;> rfl
  · cases f <;> decide

/-! ### The entries of the LUTs -/

/-- A lane holds its byte's number, shifted (10_state.md R27). -/
theorem lane_eq_ofNat (sh : Shift) (v : Byte) : lane sh v = BitVec.ofNat 32 v.toNat <<< sh.bits := by
  rw [BitVec.ofNat_toNat, lane]

theorem alphaRamp_toNat (a : BitVec 4) : (alphaRamp a).toNat = 17 * a.toNat := by
  have h := a.isLt
  rw [alphaRamp, BitVec.toNat_ofNat]
  omega

/-- Settles O18: the entry is a lane, and the ramp fits a byte. -/
theorem alphaLutHoldsRamp : Obligations.AlphaLutHoldsRamp := by
  intro sh a ha
  have hcode : (BitVec.ofNat 4 a).toNat = a := Nat.mod_eq_of_lt ha
  have hread := read_buildAlut sh (BitVec.ofNat 4 a)
  rwa [lane_eq_ofNat, alphaRamp_toNat, hcode] at hread

/-- A colour LUT's index, its two codes of k bits and its slot, as a number (10_state.md R27). -/
theorem colorIndex_eq_add {k : Nat} (c0 c1 : BitVec k) (slot : BitVec 2) :
    (((c0.toNat <<< k) ||| c1.toNat) <<< 2) ||| slot.toNat = (c0.toNat * 2 ^ k + c1.toNat) * 4 + slot.toNat := by
  rw [shiftLeft_or_eq _ _ k c1.isLt, shiftLeft_or_eq _ _ 2 slot.isLt]
  rfl

/-- An index's codes and slot are its digits (40_format_and_lut.md R90). -/
theorem colorIndex_eq_iff {k : Nat} (c0 c1 : BitVec k) (slot : BitVec 2) (i : Nat) :
    (((c0.toNat <<< k) ||| c1.toNat) <<< 2) ||| slot.toNat = i ↔
      c0.toNat = i / 4 / 2 ^ k ∧ c1.toNat = i / 4 % 2 ^ k ∧ slot.toNat = i % 4 := by
  have hdigits : i / 4 / 2 ^ k = c0.toNat ∧ i / 4 % 2 ^ k = c1.toNat ↔
      c1.toNat + 2 ^ k * c0.toNat = i / 4 ∧ c1.toNat < 2 ^ k := Nat.div_mod_unique (Nat.two_pow_pos k)
  have hc := c1.isLt
  have hs := slot.isLt
  rw [colorIndex_eq_add, Nat.mul_comm c0.toNat]
  omega

/-- Every index below the size of a colour LUT names exactly one pair of codes and slot (40_format_and_lut.md R90). -/
theorem existsUnique_colorIndex {k i : Nat} (h : i < 2 ^ k * 2 ^ k * 4) :
    ∃! q : BitVec k × BitVec k × BitVec 2, (((q.1.toNat <<< k) ||| q.2.1.toNat) <<< 2) ||| q.2.2.toNat = i := by
  have hhigh : i / 4 / 2 ^ k < 2 ^ k := Nat.div_lt_of_lt_mul (Nat.div_lt_of_lt_mul (by omega))
  refine ⟨(BitVec.ofNat k (i / 4 / 2 ^ k), BitVec.ofNat k (i / 4), BitVec.ofNat 2 i),
    (colorIndex_eq_iff _ _ _ _).2 ⟨Nat.mod_eq_of_lt hhigh, rfl, rfl⟩, ?_⟩
  rintro ⟨c0, c1, slot⟩ hq
  obtain ⟨h0, h1, h2⟩ := (colorIndex_eq_iff _ _ _ _).1 hq
  refine Prod.ext (BitVec.eq_of_toNat_eq ?_) (Prod.ext (BitVec.eq_of_toNat_eq ?_) (BitVec.eq_of_toNat_eq ?_))
  · exact h0.trans (Nat.mod_eq_of_lt hhigh).symm
  · exact h1
  · exact h2

/-- An entry of a red or blue LUT at the spec's index (40_format_and_lut.md R90). -/
theorem read_buildLut5_colorIndex (p : Params) (sh : Shift) (c0 c1 : BitVec 5) (slot : BitVec 2) :
    (buildLut5 p sh).read ((((c0.toNat <<< 5) ||| c1.toNat) <<< 2) ||| slot.toNat) =
      BitVec.ofNat 32 (palette5 p c0 c1 slot).toNat <<< sh.bits := by
  have hindex : (index5 c0 c1 slot).toNat = (((c0.toNat <<< 5) ||| c1.toNat) <<< 2) ||| slot.toNat := by
    rw [index5_toNat, colorIndex_eq_add]
    omega
  rw [← hindex, read_buildLut5, lane_eq_ofNat]

/-- An entry of the green LUT at the spec's index (40_format_and_lut.md R90). -/
theorem read_buildLut6_colorIndex (p : Params) (sh : Shift) (c0 c1 : BitVec 6) (slot : BitVec 2) :
    (buildLut6 p sh).read ((((c0.toNat <<< 6) ||| c1.toNat) <<< 2) ||| slot.toNat) =
      BitVec.ofNat 32 (palette6 p c0 c1 slot).toNat <<< sh.bits := by
  have hindex : (index6 c0 c1 slot).toNat = (((c0.toNat <<< 6) ||| c1.toNat) <<< 2) ||| slot.toNat := by
    rw [index6_toNat, colorIndex_eq_add]
    omega
  rw [← hindex, read_buildLut6, lane_eq_ofNat]

/-- Settles O19: the entries at the spec's index, and the digits of an index for both widths. -/
theorem colorLutsHoldPalette : Obligations.ColorLutsHoldPalette :=
  ⟨fun p sh c0 c1 slot =>
      ⟨read_buildLut5_colorIndex p sh.r c0 c1 slot, read_buildLut5_colorIndex p sh.b c0 c1 slot⟩,
    fun p sh c0 c1 slot => read_buildLut6_colorIndex p sh.g c0 c1 slot,
    fun _ hi => existsUnique_colorIndex (k := 5) hi, fun _ hi => existsUnique_colorIndex (k := 6) hi⟩

/-- A lane is zero outside the byte of its shift (10_state.md R27). -/
theorem lane_and_not_mask (sh : Shift) (v : Byte) : lane sh v &&& ~~~((0xFF : Word) <<< sh.bits) = 0 := by
  have hmask : (0xFF : Word) = (BitVec.allOnes 8).setWidth 32 := by decide
  have hbyte : v.setWidth 32 &&& (0xFF : Word) = v.setWidth 32 := by
    rw [hmask, ← BitVec.setWidth_and, BitVec.and_allOnes]
  calc lane sh v &&& ~~~((0xFF : Word) <<< sh.bits)
      = (lane sh v &&& (0xFF : Word) <<< sh.bits) &&& ~~~((0xFF : Word) <<< sh.bits) := by
        rw [lane, ← BitVec.shiftLeft_and_distrib, hbyte]
    _ = 0 := by
        rw [BitVec.and_assoc, BitVec.and_not_self]
        exact BitVec.and_zero

/-- Settles O22: each LUT is built of lanes of its shift; the masks of the four rows are evaluated. -/
theorem lutEntriesStayInTheirLanes : Obligations.LutEntriesStayInTheirLanes := by
  refine ⟨fun p sh i => ⟨?_, ?_, ?_, ?_⟩, fun f => ?_⟩
  · rw [buildAlut, read_ofFn_mod, lane_and_not_mask]
  · rw [buildRlut, buildLut5, read_ofFn_mod, lane_and_not_mask]
  · rw [buildGlut, buildLut6, read_ofFn_mod, lane_and_not_mask]
  · rw [buildBlut, buildLut5, read_ofFn_mod, lane_and_not_mask]
  · cases f <;> decide

/-! ### The palette, for codes of any width -/

section Palette

variable {k : Nat} (order : BlendOrder) (expand : BitVec k → Byte) (c0 c1 : BitVec k)

theorem palette_slot0 : palette order expand c0 c1 0 = expand c0 := rfl
theorem palette_slot1 : palette order expand c0 c1 1 = expand c1 := rfl
theorem palette_slot2 : palette order expand c0 c1 2 = thirdBlend order expand c0 c1 := rfl
theorem palette_slot3 : palette order expand c0 c1 3 = thirdBlend order expand c1 c0 := rfl

/-- A blend of two bytes is a byte (40_format_and_lut.md R91). -/
theorem thirdBlend_expandThenBlend_toNat :
    (thirdBlend .expandThenBlend expand c0 c1).toNat = (2 * (expand c0).toNat + (expand c1).toNat) / 3 := by
  have h0 := (expand c0).isLt
  have h1 := (expand c1).isLt
  rw [thirdBlend, BitVec.toNat_ofNat]
  omega

/-- A blend of two codes is a code (40_format_and_lut.md R91). -/
theorem thirdBlend_blendThenExpand :
    ∃ c : BitVec k, c.toNat = (2 * c0.toNat + c1.toNat) / 3 ∧
      thirdBlend .blendThenExpand expand c0 c1 = expand c := by
  have h0 := c0.isLt
  have h1 := c1.isLt
  exact ⟨BitVec.ofNat k ((2 * c0.toNat + c1.toNat) / 3), Nat.mod_eq_of_lt (by omega), rfl⟩

/-- The blend of a code with itself is its expansion, in both orders (40_format_and_lut.md R94). -/
theorem thirdBlend_self : thirdBlend order expand c0 c0 = expand c0 := by
  have hmean (n : Nat) : (2 * n + n) / 3 = n := by omega
  cases order with
  | expandThenBlend => rw [thirdBlend, hmean, BitVec.ofNat_toNat, BitVec.setWidth_eq]
  | blendThenExpand => rw [thirdBlend, hmean, BitVec.ofNat_toNat, BitVec.setWidth_eq]

/-- Pal of two equal codes is their expansion in every slot (40_format_and_lut.md R94). -/
theorem palette_self (slot : BitVec 2) : palette order expand c0 c0 slot = expand c0 := by
  have hslot : slot = 0 ∨ slot = 1 ∨ slot = 2 ∨ slot = 3 := by bv_omega
  rcases hslot with rfl | rfl | rfl | rfl
  · rw [palette_slot0]
  · rw [palette_slot1]
  · rw [palette_slot2, thirdBlend_self]
  · rw [palette_slot3, thirdBlend_self]

/-- The four slots of Pal (40_format_and_lut.md R91). -/
theorem palette_slots :
    palette order expand c0 c1 0 = expand c0 ∧ palette order expand c0 c1 1 = expand c1 ∧
    (order = .expandThenBlend →
      (palette order expand c0 c1 2).toNat = (2 * (expand c0).toNat + (expand c1).toNat) / 3 ∧
      (palette order expand c0 c1 3).toNat = ((expand c0).toNat + 2 * (expand c1).toNat) / 3) ∧
    (order = .blendThenExpand →
      (∃ c : BitVec k, c.toNat = (2 * c0.toNat + c1.toNat) / 3 ∧ palette order expand c0 c1 2 = expand c) ∧
      (∃ c : BitVec k, c.toNat = (c0.toNat + 2 * c1.toNat) / 3 ∧ palette order expand c0 c1 3 = expand c)) := by
  rw [palette_slot0, palette_slot1, palette_slot2, palette_slot3]
  refine ⟨rfl, rfl, ?_, ?_⟩ <;> rintro rfl
  · rw [Nat.add_comm (expand c0).toNat]
    exact ⟨thirdBlend_expandThenBlend_toNat expand c0 c1, thirdBlend_expandThenBlend_toNat expand c1 c0⟩
  · rw [Nat.add_comm c0.toNat]
    exact ⟨thirdBlend_blendThenExpand expand c0 c1, thirdBlend_blendThenExpand expand c1 c0⟩

end Palette

/-- Settles O20: the slots of Pal, for codes of 5 and of 6 bits. -/
theorem paletteSlotFormulas : Obligations.PaletteSlotFormulas :=
  fun p => ⟨fun c0 c1 => palette_slots p.blendOrder p.colorExpand5 c0 c1,
    fun c0 c1 => palette_slots p.blendOrder p.colorExpand6 c0 c1⟩

/-- Settles O21: the blend of a code with itself, for codes of 5 and of 6 bits. -/
theorem equalColorsGiveEqualSlots : Obligations.EqualColorsGiveEqualSlots :=
  fun p => ⟨palette_self p.blendOrder p.colorExpand5, palette_self p.blendOrder p.colorExpand6⟩

/-! ### The default expansions -/

/-- The replication of a 5-bit code fits a byte (40_format_and_lut.md R96). -/
theorem replicate5_toNat {c : Nat} (h : c < 2 ^ 5) : (replicate5 c).toNat = (c <<< 3) ||| (c >>> 2) :=
  Nat.mod_eq_of_lt (Nat.or_lt_two_pow (by rw [Nat.shiftLeft_eq]; omega) (by rw [Nat.shiftRight_eq_div_pow]; omega))

/-- The replication of a 6-bit code fits a byte (40_format_and_lut.md R96). -/
theorem replicate6_toNat {c : Nat} (h : c < 2 ^ 6) : (replicate6 c).toNat = (c <<< 2) ||| (c >>> 4) :=
  Nat.mod_eq_of_lt (Nat.or_lt_two_pow (by rw [Nat.shiftLeft_eq]; omega) (by rw [Nat.shiftRight_eq_div_pow]; omega))

theorem colorExpand5_withOutWords (n : Nat) (c : BitVec 5) :
    (Params.withOutWords n).colorExpand5 c = replicate5 c.toNat := Vector.get_ofFn _ _

theorem colorExpand6_withOutWords (n : Nat) (c : BitVec 6) :
    (Params.withOutWords n).colorExpand6 c = replicate6 c.toNat := Vector.get_ofFn _ _

/-- Settles O23: the two formulas, and the tables, which OUT_WORDS does not enter, evaluated. -/
theorem defaultExpansionTables : Obligations.DefaultExpansionTables := by
  refine fun n => ⟨fun c => ?_, fun c => ?_, rfl, rfl, withOutWords_wf⟩
  · rw [colorExpand5_withOutWords, replicate5_toNat c.isLt]
  · rw [colorExpand6_withOutWords, replicate6_toNat c.isLt]

/-! ### Every step answers, but for a host access outside OUTMEM -/

/-- A host access to an OUTMEM word that does not exist is the fault of log 16. -/
theorem perform_outside {s : State} {act : HostAction} {a : Nat} (ha : s.params.outWords ≤ a)
    (hact : act = .readOut a ∨ (∃ v, act = .writeOut a v) ∨ ∃ w, act = .readOutDuring w a) :
    perform act s = .fault (.outsideOutmem a) := by
  have hout : s.hasOutWord a = false := decide_eq_false (Nat.not_lt.2 ha)
  rcases hact with rfl | ⟨v, rfl⟩ | ⟨w, rfl⟩
  · simp [perform, readOut, hout]
  · simp [perform, writeOut, hout]
  · simp [perform, readOutDuring, hout]

/-- A host action answers a next state, or it is an access to an OUTMEM word that does not exist. -/
theorem perform_next_or_outside (act : HostAction) (s : State) :
    (∃ t, perform act s = .next t) ∨
    ∃ a, s.params.outWords ≤ a ∧ (act = .readOut a ∨ (∃ v, act = .writeOut a v) ∨ ∃ w, act = .readOutDuring w a) := by
  cases act with
  | read acc => exact .inl ⟨_, rfl⟩
  | write acc v =>
    rcases writeReg_setReg_cases acc v s with ⟨-, e⟩ | ⟨r, -, -, -, e⟩ | ⟨-, e⟩
    · obtain ⟨t, ht⟩ := writeCmd_next v s
      exact .inl ⟨t, e.trans ht⟩
    · exact .inl ⟨_, e⟩
    · exact .inl ⟨_, e⟩
  | readOut a =>
    rcases Nat.lt_or_ge a s.params.outWords with ha | ha
    · exact .inl ⟨_, if_pos (decide_eq_true ha)⟩
    · exact .inr ⟨a, ha, .inl rfl⟩
  | writeOut a v =>
    rcases Nat.lt_or_ge a s.params.outWords with ha | ha
    · exact .inl ⟨_, if_pos (decide_eq_true ha)⟩
    · exact .inr ⟨a, ha, .inr (.inl ⟨v, rfl⟩)⟩
  | reset => exact .inl ⟨_, rfl⟩
  | resetDuring w => exact .inl ⟨_, rfl⟩
  | readOutDuring w a =>
    rcases Nat.lt_or_ge a s.params.outWords with ha | ha
    · obtain ⟨t, -, e⟩ := readOutDuring_eq (w := w) ha
      exact .inl ⟨_, e⟩
    · exact .inr ⟨a, ha, .inr (.inr ⟨w, rfl⟩)⟩

/-- Settles O44: the reset build and idling answer, and so does every host action inside OUTMEM. -/
theorem stepAnswersOrHostLeavesOutmem : Obligations.StepAnswersOrHostLeavesOutmem := by
  intro s
  rcases step_cases s with ⟨-, e⟩ | ⟨-, -, e⟩ | ⟨act, rest, hv, hs, e⟩
  · exact .inl ⟨_, e⟩
  · exact .inl ⟨_, e⟩
  · rw [e]
    rcases perform_next_or_outside act (s.withScript rest) with ⟨t, ht⟩ | ⟨a, ha, hact⟩
    · exact .inl ⟨t, ht⟩
    · exact .inr ⟨act, rest, a, hv, hs, ha, perform_outside ha hact, hact⟩

end Sys2Proof.Machine

/-! ## PROOFS. DECODE_BLOCK (41_block_decode.md) -/

namespace Sys2Proof.Machine

open Sys2Proof.Claims

/-! ### The pixel -/

/-- Four lanes of a format or-ed together are their sum: no two of them overlap (41_block_decode.md R106). -/
theorem lanes_toNat (f : PixelFormat) (a r g b : Byte) :
    (lane f.shifts.a a ||| lane f.shifts.r r ||| lane f.shifts.g g ||| lane f.shifts.b b).toNat =
      a.toNat * 2 ^ f.shifts.a.bits + r.toNat * 2 ^ f.shifts.r.bits + g.toNat * 2 ^ f.shifts.g.bits +
        b.toNat * 2 ^ f.shifts.b.bits := by
  rw [lanes_eq_wordOf]
  cases f <;> simp only [wordOf_toNat, PixelFormat.shifts, Shift.bits] <;> omega

/-- Settles O24: a pixel is the lanes of its four channel bytes, which are the block's values. -/
theorem pixelIsFourDisjointChannels : Obligations.PixelIsFourDisjointChannels := by
  intro s i h hv hi
  constructor
  · rw [pixel_eq_lanes h hv, blockPixel, ← alphaByte_toNat s hi, ← redByte_toNat s hi, ← greenByte_toNat s hi,
      ← blueByte_toNat s hi, lane_eq_ofNat, lane_eq_ofNat, lane_eq_ofNat, lane_eq_ofNat]
  · rw [pixel_eq_lanes h hv, lanes_toNat, h.shifts, alphaByte_toNat s hi, redByte_toNat s hi, greenByte_toNat s hi,
      blueByte_toNat s hi]

/-! ### The bounds check -/

/-- A DECODE_BLOCK whose largest address is no word of OUTMEM raises BOUNDS and does nothing else (41_block_decode.md
R108). -/
theorem exec_decodeBlock_outOfBounds {s : State} {vw vh : Nat} (he : s.err = .none)
    (hb : s.params.outWords ≤ last s vw vh) : exec (.decodeBlock vw vh) s = .next { s with err := .bounds } := by
  have hout : s.inBounds vw vh = false := decide_eq_false (Nat.not_lt.2 hb)
  simp [exec, execDecodeBlock, State.decodeBlock, State.raise, he, hout]

/-- The last texel of a clip has its largest address (41_block_decode.md R108). -/
theorem address_lastTexel {s : State} {vw vh : Nat} (hw : 1 ≤ vw) (hw4 : vw ≤ 4) :
    address s (4 * (vh - 1) + (vw - 1)) = last s vw vh := by
  rw [address, last, show (4 * (vh - 1) + (vw - 1)) / 4 = vh - 1 by omega,
    show (4 * (vh - 1) + (vw - 1)) % 4 = vw - 1 by omega]

/-- Settles O29: the two branches of the check, and the clip's last texel, past which none is addressed. -/
theorem boundsCheckPrecedesWrites : Obligations.BoundsCheckPrecedesWrites := by
  intro s vw vh hwf he
  obtain ⟨hw, hw4, hh, hh4⟩ := wf_decodeBlock hwf
  have hle : ∀ i, Clipped vw vh i → address s i ≤ last s vw vh := fun i hi => texelAddress_le (mem_clipTexels.2 hi)
  refine ⟨exec_decodeBlock_outOfBounds he, fun hb => ⟨exec_decodeBlock_inBounds he hb, fun p hp => ?_⟩, hle,
    4 * (vh - 1) + (vw - 1), ⟨by omega, by omega, by omega⟩, address_lastTexel hw hw4⟩
  obtain ⟨i, hi, rfl⟩ := List.mem_map.1 hp
  exact (hle i (mem_clipTexels.1 hi)).trans_lt hb

/-- Settles O30: at most three rows of STRIDE, and three columns, past DST. -/
theorem noAddressWraps : Obligations.NoAddressWraps := by
  intro s vw vh hwf
  obtain ⟨-, hw4, -, hh4⟩ := wf_decodeBlock hwf
  refine ⟨?_, fun hsize he hlast => exec_decodeBlock_outOfBounds he (hsize.trans hlast)⟩
  have hdst := s.dst.isLt
  have hstride := s.stride.isLt
  have hrows : (vh - 1) * s.stride.toNat ≤ 3 * s.stride.toNat := Nat.mul_le_mul_right _ (by omega)
  rw [last]
  omega

/-! ### The OutWrites: their frame, and making them twice -/

/-- A byte after a list of OutWrites depends on the old one only where none of them goes. -/
theorem byte?_writeWords_congr {ws : List (Nat × Word)} {b : Nat} {m m' : Memory}
    (h : (∀ w ∈ ws, b / 4 ≠ w.1) → Memory.byte? m b = Memory.byte? m' b) :
    Memory.byte? (Memory.writeWords m ws) b = Memory.byte? (Memory.writeWords m' ws) b := by
  induction ws generalizing m m' with
  | nil => exact h fun _ hw => absurd hw List.not_mem_nil
  | cons d ws ih =>
    obtain ⟨a, v⟩ := d
    refine ih fun hrest => ?_
    rw [byte?_writeWord, byte?_writeWord]
    split
    · rfl
    · next hne => exact h (List.forall_mem_cons.2 ⟨hne, hrest⟩)

/-- OutWrites made twice leave the bytes they leave once (41_block_decode.md R110). -/
theorem byte?_writeWords_twice (m : Memory) (ws : List (Nat × Word)) (b : Nat) :
    Memory.byte? (Memory.writeWords (Memory.writeWords m ws) ws) b = Memory.byte? (Memory.writeWords m ws) b :=
  byte?_writeWords_congr fun hnone => byte?_writeWords_frame hnone m

/-- Settles O26: OUTMEM takes no part in what a DECODE_BLOCK writes, so issued again it makes the same OutWrites. -/
theorem decodeBlockCompletesWithFrame : Obligations.DecodeBlockCompletesWithFrame := by
  intro s vw vh _ he hb
  refine ⟨_, exec_decodeBlock_inBounds he hb, fun a ha => byte?_writeWords_frame (fun w hw => ?_) _,
    _, exec_decodeBlock_inBounds he hb, byte?_writeWords_twice s.outmem (s.texelWrites vw vh)⟩
  obtain ⟨i, hi, rfl⟩ := List.mem_map.1 hw
  exact ha i (mem_clipTexels.1 hi)

/-! ### Distinct addresses, and the full clip -/

/-- No two texels of a clip share an address when STRIDE is at least VW, or in one row (20_memory.md R52). -/
theorem address_ne_of_lt {s : State} {vw vh i j : Nat} (hd : vw ≤ s.stride.toNat ∨ vh = 1) (hi : Clipped vw vh i)
    (hj : Clipped vw vh j) (hij : i < j) : address s j ≠ address s i := by
  intro h
  rcases hd with hstride | rfl
  · exact absurd (stride_lt_of_address_eq hi hj hij h.symm) (Nat.not_lt.2 hstride)
  · obtain ⟨-, hrow, -⟩ := hi
    obtain ⟨-, hrow', -⟩ := hj
    rw [address, address, show i / 4 = 0 by omega, show j / 4 = 0 by omega] at h
    omega

/-- Settles O28: each texel of the clip is the highest at its address. -/
theorem distinctTexelsAllWritten : Obligations.DistinctTexelsAllWritten := by
  intro s vw vh _ he hb hd
  exact ⟨_, exec_decodeBlock_inBounds he hb, fun i hi => readWord_of_bytes fun k hk =>
    byte?_texelWrites_highest hi (fun j hij hj => address_ne_of_lt hd hi hj hij) hk _⟩

/-- The full clip is the whole block (41_block_decode.md R113). -/
theorem clipTexels_full : clipTexels 4 4 = List.range 16 := by decide

/-- The OutWrites of the full clip are those of all sixteen texels in order (20_memory.md R52). -/
theorem texelWrites_full (s : State) :
    s.texelWrites 4 4 = (List.range 16).map fun i => (address s i, s.pixel i) := by
  rw [State.texelWrites, clipTexels_full]
  rfl

/-- Settles O31: the OutWrites of a DECODE_BLOCK in range, at the full clip. -/
theorem fullClipWritesSixteenTexels : Obligations.FullClipWritesSixteenTexels := by
  intro s he hb
  rw [← texelWrites_full]
  exact ⟨if_pos ⟨he, inBounds_iff.2 hb⟩, exec_decodeBlock_inBounds he hb⟩

/-! ### What a DECODE_BLOCK depends on -/

/-- Two states agree on what a DECODE_BLOCK reads: the block, DST and STRIDE, the LUTs and OUT_WORDS
(41_block_decode.md R110). -/
structure DecodeInputsAgree (s s' : State) : Prop where
  blk0 : s.blk0 = s'.blk0
  blk1 : s.blk1 = s'.blk1
  blk2 : s.blk2 = s'.blk2
  blk3 : s.blk3 = s'.blk3
  dst : s.dst = s'.dst
  stride : s.stride = s'.stride
  alut : s.alut = s'.alut
  rlut : s.rlut = s'.rlut
  glut : s.glut = s'.glut
  blut : s.blut = s'.blut
  outWords : s.params.outWords = s'.params.outWords

theorem DecodeInputsAgree.last_eq {s s' : State} (h : DecodeInputsAgree s s') (vw vh : Nat) :
    last s vw vh = last s' vw vh := by
  rw [last, last, h.dst, h.stride]

theorem DecodeInputsAgree.texelAddress_eq {s s' : State} (h : DecodeInputsAgree s s') (i : Nat) :
    s.texelAddress i = s'.texelAddress i := by
  rw [State.texelAddress, State.texelAddress, h.dst, h.stride]

theorem DecodeInputsAgree.pixel_eq {s s' : State} (h : DecodeInputsAgree s s') (i : Nat) : s.pixel i = s'.pixel i := by
  have hix : s.colorIndex i = s'.colorIndex i := by
    rw [State.colorIndex, State.colorIndex, State.colorIndices, State.colorIndices, h.blk3]
  have hac : s.alphaCode i = s'.alphaCode i := by
    rw [State.alphaCode, State.alphaCode, State.alphaCodes, State.alphaCodes, h.blk0, h.blk1]
  have hc0 : s.color0 = s'.color0 := by rw [State.color0, State.color0, h.blk2]
  have hc1 : s.color1 = s'.color1 := by rw [State.color1, State.color1, h.blk2]
  simp only [State.pixel, State.ccr, State.ccg, State.ccb, hix, hac, hc0, hc1, h.alut, h.rlut, h.glut, h.blut]

theorem DecodeInputsAgree.texelWrites_eq {s s' : State} (h : DecodeInputsAgree s s') (vw vh : Nat) :
    s.texelWrites vw vh = s'.texelWrites vw vh :=
  List.map_congr_left fun i _ => Prod.ext (h.texelAddress_eq i) (h.pixel_eq i)

/-- Settles O32: a DECODE_BLOCK is discarded, makes the OutWrites of its clip or raises BOUNDS, and the states that
agree take the same branch. -/
theorem decodeDependsOnlyOnItsInputs : Obligations.DecodeDependsOnlyOnItsInputs := by
  intro s s' vw vh h0 h1 h2 h3 hdst hstride halut hrlut hglut hblut hsize herr hmem
  have h : DecodeInputsAgree s s' := ⟨h0, h1, h2, h3, hdst, hstride, halut, hrlut, hglut, hblut, hsize⟩
  by_cases he : s.err = .none
  · rcases Nat.lt_or_ge (last s vw vh) s.params.outWords with hb | hb
    · refine ⟨_, _, exec_decodeBlock_inBounds he hb,
        exec_decodeBlock_inBounds (herr ▸ he) (h.last_eq vw vh ▸ h.outWords ▸ hb), ?_, herr⟩
      rw [State.outWrites_outmem, State.outWrites_outmem, hmem, h.texelWrites_eq]
    · exact ⟨_, _, exec_decodeBlock_outOfBounds he hb,
        exec_decodeBlock_outOfBounds (herr ▸ he) (h.last_eq vw vh ▸ h.outWords ▸ hb), hmem, rfl⟩
  · exact ⟨s, s', exec_discarded he nofun, exec_discarded (herr ▸ he) nofun, hmem, herr⟩

end Sys2Proof.Machine

/-! ## PROOFS. The image driver and the buffer sizes (42_host_driver.md) -/

namespace Sys2Proof.Machine

open Sys2Proof.Claims

/-! ### The buffer sizes and the checks -/

/-- Settles O49: the formulas are the definitions, and the ceiling is rounding up. -/
theorem bufferSizeFormulas : Obligations.BufferSizeFormulas :=
  fun _ _ => ⟨rfl, rfl, fun n => by omega⟩

/-- The checks (a) to (d) as one proposition (42_host_driver.md R133). -/
theorem Image.valid_iff {img : Image} {n : Nat} :
    img.valid n = true ↔
      (1 ≤ img.width ∧ 1 ≤ img.height) ∧ inputBufferSize img.width img.height ≤ img.input.length ∧
        img.obase + img.width * img.height ≤ n ∧ img.width < 2 ^ 32 ∧ img.obase < 2 ^ 32 := by
  simp only [Image.valid, Bool.and_eq_true, decide_eq_true_eq, and_assoc]

/-- Settles O50: a failed check is the driver's other branch. -/
theorem driverRejectsInvalidArguments : Obligations.DriverRejectsInvalidArguments := by
  intro img s hfail
  have hinvalid : ¬ img.valid s.params.outWords = true := by
    rw [Image.valid_iff]
    rintro ⟨ha, hb, hc, hd⟩
    rcases hfail with hn | hn | hn | hn
    · exact hn ha
    · exact hn hb
    · exact hn hc
    · exact hn hd
  rw [driverDecode, if_neg hinvalid]

/-! ### The driver's program, block by block -/

/-- The blocks of the image as (row, column), top to bottom and left to right (42_host_driver.md R134). -/
def Image.blocks (img : Image) : List (Nat × Nat) :=
  List.range (blocksAcross img.height) ×ˢ List.range (blocksAcross img.width)

/-- VW of a block: its columns inside the image (42_host_driver.md R134). -/
def Image.clipWidth (img : Image) (b : Nat × Nat) : Nat := min 4 (img.width - 4 * b.2)

/-- VH of a block: its rows inside the image. -/
def Image.clipHeight (img : Image) (b : Nat × Nat) : Nat := min 4 (img.height - 4 * b.1)

/-- The DECODE_BLOCK of a block. -/
def Image.blockCommand (img : Image) (b : Nat × Nat) : Instr := .decodeBlock (img.clipWidth b) (img.clipHeight b)

/-- The 16 bytes of a block in the input buffer. -/
def Image.bytesOf (img : Image) (b : Nat × Nat) : List Byte := img.blockBytes (img.blockNumber b.2 b.1)

/-- The host actions of a block: ldblk, setdst, decblk. -/
def Image.blockActions (img : Image) (b : Nat × Nat) : List HostAction := expandScript (img.blockLines b.2 b.1)

/-- A block of the image starts inside it. -/
theorem Image.mem_blocks {img : Image} {b : Nat × Nat} :
    b ∈ img.blocks ↔ 4 * b.1 < img.height ∧ 4 * b.2 < img.width := by
  obtain ⟨r, c⟩ := b
  rw [Image.blocks, List.mem_product, List.mem_range, List.mem_range, blocksAcross, blocksAcross]
  omega

theorem Image.length_blocks (img : Image) :
    img.blocks.length = blocksAcross img.height * blocksAcross img.width := by
  rw [Image.blocks, List.length_product, List.length_range, List.length_range]

/-- The program is the blocks' actions, then rd STATUS (42_host_driver.md R134). -/
theorem Image.script_eq (img : Image) :
    img.script = img.blocks.flatMap img.blockActions ++ [.read Reg.status.access] := by
  rw [Image.script, expandScript, List.flatMap_append]
  congr 1
  simp only [Image.allLines, Image.rowLines, Image.blocks, SProd.sprod, List.product, List.flatMap_assoc,
    List.flatMap_map]
  rfl

/-- The actions of a block: six register writes and the CMD write of its DECODE_BLOCK (30_encoding.md R68, R69). -/
theorem Image.blockActions_eq (img : Image) (b : Nat × Nat) :
    img.blockActions b = (ScriptLine.ldblk (img.bytesOf b)).expand ++
      ((ScriptLine.setdst (BitVec.ofNat 32 (img.blockDst b.2 b.1)) (BitVec.ofNat 32 img.width)).expand ++
        [wrAction .cmd (encode (img.blockCommand b))]) := rfl

/-- Every block of the image has a texel inside it, so its DECODE_BLOCK has a word (42_host_driver.md R134). -/
theorem Image.decode_blockCommand {img : Image} {b : Nat × Nat} (hb : b ∈ img.blocks) :
    decode (encode (img.blockCommand b)) = .ok (img.blockCommand b) := by
  obtain ⟨hr, hc⟩ := Image.mem_blocks.1 hb
  refine decodeOfEncodeIsIdentity _ ?_
  simp only [Image.blockCommand, Image.clipWidth, Image.clipHeight, Instr.wf, clipCountOk, Bool.and_eq_true,
    decide_eq_true_eq]
  omega

/-! ### The number of commands and of BLK writes -/

@[simp] theorem access_inj {r r' : Reg} : r.access = r'.access ↔ r = r' := by
  refine ⟨fun h => ?_, congrArg _⟩
  have hreg : r.access.reg? = r'.access.reg? := congrArg _ h
  simpa using hreg

/-- A list made of pieces that each hold n of what is counted. -/
theorem countP_flatMap_const {α β : Type} {p : β → Bool} {f : α → List β} {n : Nat} {l : List α}
    (h : ∀ x ∈ l, (f x).countP p = n) : (l.flatMap f).countP p = l.length * n := by
  have hall : ∀ c ∈ l.map (List.countP p ∘ f), c = n := List.forall_mem_map.2 h
  rw [List.countP_flatMap, List.sum_eq_card_nsmul _ _ hall, List.length_map, smul_eq_mul]

/-- A block issues one DECODE_BLOCK (42_host_driver.md R134). -/
theorem Image.countP_isDecodeWrite_blockActions {img : Image} {b : Nat × Nat} (hb : b ∈ img.blocks) :
    (img.blockActions b).countP isDecodeWrite = 1 := by
  have hd := Image.decode_blockCommand hb
  rw [Image.blockCommand] at hd
  simp [Image.blockActions_eq, ScriptLine.expand, wrAction, isDecodeWrite, Image.blockCommand, hd]

/-- A block makes four BLK writes (30_encoding.md R69). -/
theorem Image.countP_isBlkWrite_blockActions (img : Image) (b : Nat × Nat) :
    (img.blockActions b).countP isBlkWrite = 4 := by
  simp [Image.blockActions_eq, ScriptLine.expand, wrAction, isBlkWrite]

/-- Settles O51: one DECODE_BLOCK and four BLK writes a block, and the read of STATUS is neither. -/
theorem driverCommandCount : Obligations.DriverCommandCount := by
  intro img n _
  rw [Image.script_eq, List.countP_append, List.countP_append,
    countP_flatMap_const fun _ => Image.countP_isDecodeWrite_blockActions,
    countP_flatMap_const fun b _ => img.countP_isBlkWrite_blockActions b, Image.length_blocks]
  simp only [blocksAcross]
  constructor
  · simp [isDecodeWrite, mul_comm]
  · simp only [isBlkWrite, List.countP_singleton, Bool.false_eq_true, if_false]
    ring

/-! ### Running the program -/

/-- A DECODE_BLOCK that is discarded or in range makes the OutWrites of the command (41_block_decode.md R100;
60_exceptions.md R163). -/
theorem exec_decodeBlock_eq_outWrites {s : State} {vw vh : Nat}
    (h : s.err = .none → last s vw vh < s.params.outWords) :
    exec (.decodeBlock vw vh) s = .next (s.outWrites (s.commandWrites (.decodeBlock vw vh))) := by
  by_cases he : s.err = .none
  · rw [exec_decodeBlock_inBounds he (h he), State.commandWrites, if_pos ⟨he, inBounds_iff.2 (h he)⟩]
  · rw [exec_discarded (i := .decodeBlock vw vh) he nofun, State.commandWrites, if_neg fun hw => he hw.1]
    rfl

/-- The state with the registers as the host loads them for a block (42_host_driver.md R134). -/
def State.loadBlock (s : State) (img : Image) (b : Nat × Nat) : State :=
  { s with
    blk0 := le32 (img.bytesOf b) 0
    blk1 := le32 (img.bytesOf b) 4
    blk2 := le32 (img.bytesOf b) 8
    blk3 := le32 (img.bytesOf b) 12
    dst := BitVec.ofNat 32 (img.blockDst b.2 b.1)
    stride := BitVec.ofNat 32 img.width }

/-- The OutWrites of a block's DECODE_BLOCK; none while an error is pending (60_exceptions.md R163). -/
def State.blockWrites (s : State) (img : Image) (b : Nat × Nat) : List (Nat × Word) :=
  (s.loadBlock img b).commandWrites (img.blockCommand b)

/-- The block's DECODE_BLOCK finds its addresses in range, if it is not discarded (41_block_decode.md R108). -/
def State.BlockFits (s : State) (img : Image) (b : Nat × Nat) : Prop :=
  s.err = .none → last (s.loadBlock img b) (img.clipWidth b) (img.clipHeight b) < s.params.outWords

/-- The state after the actions of a block that fits. -/
def State.driveBlock (s : State) (img : Image) (b : Nat × Nat) : State :=
  (s.loadBlock img b).outWrites (s.blockWrites img b)

/-- The state after the actions of a list of blocks that fit. -/
def State.driveBlocks (s : State) (img : Image) : List (Nat × Nat) → State
  | [] => s
  | b :: bs => (s.driveBlock img b).driveBlocks img bs

/-- Two steps of setdst load DST and STRIDE (30_encoding.md R69). -/
theorem run_setdst {s : State} {d st : Word} {rest : List HostAction} (hv : s.lutValid = true)
    (hs : s.script = (ScriptLine.setdst d st).expand ++ rest) :
    Host.Core.run Sys2Proof.core 2 s = .next { s with script := rest, dst := d, stride := st } := by
  calc Host.Core.run Sys2Proof.core 2 s
      = _ := run_succ (step_wrAction (r := .dst) (by decide) (by decide) hv hs) 1
    _ = _ := run_succ (step_wrAction (r := .stride) (by decide) (by decide) (by exact hv) (by rfl)) 0

/-- The seven steps of a block that fits. -/
theorem run_blockActions {img : Image} {s : State} {b : Nat × Nat} (hb : b ∈ img.blocks) (hv : s.lutValid = true)
    (hfit : s.BlockFits img b) (rest : List HostAction) :
    Host.Core.run Sys2Proof.core 7 (s.withScript (img.blockActions b ++ rest)) =
      .next ((s.driveBlock img b).withScript rest) := by
  have hcmd : step ((s.loadBlock img b).withScript (wrAction .cmd (encode (img.blockCommand b)) :: rest)) =
      .next ((s.driveBlock img b).withScript rest) := by
    refine (step_cmd (by exact hv) (by rfl)).trans ?_
    rw [writeCmd, Image.decode_blockCommand hb]
    exact exec_decodeBlock_eq_outWrites hfit
  rw [Image.blockActions_eq, List.append_assoc]
  refine (run_add (run_ldblk (by exact hv) (by rfl)) 3).trans ?_
  refine (run_add (run_setdst (by exact hv) (by rfl)) 1).trans ?_
  exact run_succ hcmd 0

/-- The steps of some blocks of the image, one after the other. -/
theorem run_blocks {img : Image} {bs : List (Nat × Nat)} (hbs : ∀ b ∈ bs, b ∈ img.blocks) {s : State}
    (hv : s.lutValid = true) (hfit : ∀ b ∈ bs, s.BlockFits img b) (rest : List HostAction) :
    Host.Core.run Sys2Proof.core (7 * bs.length) (s.withScript (bs.flatMap img.blockActions ++ rest)) =
      .next ((s.driveBlocks img bs).withScript rest) := by
  induction bs generalizing s with
  | nil => rfl
  | cons b bs ih =>
    obtain ⟨hb, hbs⟩ := List.forall_mem_cons.1 hbs
    obtain ⟨hfitb, hfit⟩ := List.forall_mem_cons.1 hfit
    rw [List.length_cons, Nat.mul_succ, Nat.add_comm, List.flatMap_cons, List.append_assoc,
      run_add (run_blockActions hb hv hfitb _)]
    exact ih hbs hv hfit

theorem Image.length_script (img : Image) : img.script.length = 7 * img.blocks.length + 1 := by
  have hblock : ∀ b, (img.blockActions b).length = 7 := fun _ => rfl
  simp [Image.script_eq, List.length_flatMap, hblock, mul_comm]

/-! ### What the blocks leave -/

/-- What no block changes, a list of blocks does not change. -/
theorem driveBlocks_keeps {α : Type} {img : Image} {f : State → α}
    (hf : ∀ (s : State) (b : Nat × Nat), f (s.driveBlock img b) = f s) (s : State) (bs : List (Nat × Nat)) :
    f (s.driveBlocks img bs) = f s := by
  induction bs generalizing s with
  | nil => rfl
  | cons b bs ih => exact (ih _).trans (hf s b)

@[simp] theorem driveBlocks_err (s : State) (img : Image) (bs : List (Nat × Nat)) :
    (s.driveBlocks img bs).err = s.err := driveBlocks_keeps (f := State.err) (fun _ _ => rfl) s bs

@[simp] theorem driveBlocks_format (s : State) (img : Image) (bs : List (Nat × Nat)) :
    (s.driveBlocks img bs).format = s.format := driveBlocks_keeps (f := State.format) (fun _ _ => rfl) s bs

@[simp] theorem driveBlocks_lutValid (s : State) (img : Image) (bs : List (Nat × Nat)) :
    (s.driveBlocks img bs).lutValid = s.lutValid := driveBlocks_keeps (f := State.lutValid) (fun _ _ => rfl) s bs

/-- OUTMEM after some blocks: what a block writes does not depend on the blocks before it. -/
theorem driveBlocks_outmem (s : State) (img : Image) (bs : List (Nat × Nat)) :
    (s.driveBlocks img bs).outmem = Memory.writeWords s.outmem (bs.flatMap (s.blockWrites img)) := by
  induction bs generalizing s with
  | nil => rfl
  | cons b bs ih =>
    rw [List.flatMap_cons, writeWords_append]
    exact ih _

/-! ### The result of Decode -/

/-- The reset build, if one is pending (70_reset_and_hazards.md R181). -/
theorem ready_cases (s : State) :
    (s.lutValid = true ∧ s.ready = s) ∨ (s.lutValid = false ∧ s.ready = s.rebuildLuts) := by
  rcases Bool.eq_false_or_eq_true s.lutValid with h | h <;> simp [State.ready, h]

@[simp] theorem ready_lutValid (s : State) : s.ready.lutValid = true := by
  rcases ready_cases s with ⟨hv, h⟩ | ⟨-, h⟩ <;> rw [h]
  · exact hv
  · rfl

/-- What the reset build does not change, making the state ready does not change. -/
theorem ready_keeps {α : Type} {f : State → α} (hf : ∀ s : State, f s.rebuildLuts = f s) (s : State) :
    f s.ready = f s := by
  rcases ready_cases s with ⟨-, h⟩ | ⟨-, h⟩ <;> rw [h]
  exact hf s

@[simp] theorem ready_err (s : State) : s.ready.err = s.err := ready_keeps State.rebuildLuts_err s

@[simp] theorem ready_format (s : State) : s.ready.format = s.format := ready_keeps State.rebuildLuts_format s

@[simp] theorem ready_outmem (s : State) : s.ready.outmem = s.outmem := ready_keeps State.rebuildLuts_outmem s

@[simp] theorem ready_params (s : State) : s.ready.params = s.params := ready_keeps State.rebuildLuts_params s

theorem State.Inv.ready {s : State} (h : s.Inv) : s.ready.Inv := by
  rcases ready_cases s with ⟨-, e⟩ | ⟨-, e⟩ <;> rw [e]
  · exact h
  · exact h.rebuildLuts

/-- STATUS.ERR reads 0 when no error is held, and only then (60_exceptions.md R160). -/
theorem statusErrField_eq_zero_iff (s : State) : statusErrField s.statusWord = 0 ↔ s.err = .none := by
  obtain ⟨-, herr, -⟩ := statusWord_fields s
  rw [herr]
  cases s.err <;> decide

/-- Decode's verdict on a state that has just read STATUS is that of its ERR (42_host_driver.md R135). -/
theorem driverResult_recordRead_statusWord (t : State) :
    driverResult (t.recordRead t.statusWord) = if t.err = .none then .success else .invalidArgument := by
  simp only [driverResult, State.recordRead_reads, statusErrField_eq_zero_iff]

/-- The step that reads STATUS (43_control.md R152). -/
theorem step_readStatus {t : State} (hv : t.lutValid = true) (rest : List HostAction) :
    step (t.withScript (.read Reg.status.access :: rest)) = .next ((t.withScript rest).recordRead t.statusWord) :=
  step_perform (s := t.withScript (.read Reg.status.access :: rest)) hv rfl

/-- What Decode answers on a valid image whose blocks fit: the verdict of ERR, and the state its blocks leave, with
STATUS read and the host's own script next (42_host_driver.md R134, R135; log 22). -/
theorem driverDecode_eq {img : Image} {s : State} (hvalid : img.valid s.params.outWords = true)
    (hfit : ∀ b ∈ img.blocks, s.ready.BlockFits img b) :
    driverDecode img s = .next
      (if s.err = .none then .success else .invalidArgument,
        ((s.ready.driveBlocks img img.blocks).withScript s.script).recordRead
          (s.ready.driveBlocks img img.blocks).statusWord) := by
  have hblocks := run_blocks (fun _ hb => hb) (ready_lutValid s) hfit (.read Reg.status.access :: s.script)
  have hstatus := step_readStatus (t := s.ready.driveBlocks img img.blocks) (by simp) s.script
  have hverdict := driverResult_recordRead_statusWord ((s.ready.driveBlocks img img.blocks).withScript s.script)
  rw [State.withScript_err, driveBlocks_err, ready_err] at hverdict
  rw [driverDecode, if_pos hvalid, Image.length_script, Image.script_eq, List.append_assoc, List.singleton_append,
    run_add hblocks, run_succ hstatus, run_zero, ← hverdict]
  rfl

/-- Settles O53: every block fits, since its DECODE_BLOCK is discarded and makes no OutWrite. -/
theorem driverReportsPendingError : Obligations.DriverReportsPendingError := by
  intro img s he hvalid
  have hpending : s.ready.err ≠ .none := by rwa [ready_err]
  have hnone : img.blocks.flatMap (s.ready.blockWrites img) = [] :=
    List.flatMap_eq_nil_iff.2 fun b _ => if_neg fun h => hpending h.1
  have hdecode := driverDecode_eq hvalid fun b _ h => absurd h hpending
  rw [if_neg he] at hdecode
  refine ⟨_, hdecode, ?_, by simp, by simp, rfl⟩
  simp [driveBlocks_outmem, hnone]

/-! ### The image that the blocks leave -/

/-- The OutWrite of pixel (x, y) of the image in a format (42_host_driver.md R137). -/
def Image.pixelWrite (img : Image) (p : Params) (f : PixelFormat) (x y : Nat) : Nat × Word :=
  (img.obase + y * img.width + x, blockPixel p f (img.bytesOf (y / 4, x / 4)) (y % 4 * 4 + x % 4))

/-- A byte of a word that the OutWrites to its address agree on, however many they are. -/
theorem byte?_writeWords_of_agree {ws : List (Nat × Word)} {a k : Nat} {v : Word} (hk : k < 4) (hmem : (a, v) ∈ ws)
    (hagree : ∀ c ∈ ws, c.1 = a → c.2 = v) (m : Memory) :
    Memory.byte? (Memory.writeWords m ws) (4 * a + k) = some (byteOf v k) := by
  induction ws generalizing m with
  | nil => exact absurd hmem List.not_mem_nil
  | cons c ws ih =>
    obtain ⟨hc, hws⟩ := List.forall_mem_cons.1 hagree
    rw [writeWords_cons]
    by_cases hlater : (a, v) ∈ ws
    · exact ih hlater hws _
    · obtain rfl := (List.mem_cons.1 hmem).resolve_right hlater
      have hlast : ∀ w ∈ ws, (4 * a + k) / 4 ≠ w.1 := by
        intro w hw ha
        have haw : w.1 = a := by omega
        have hwv : w = (a, v) := Prod.ext haw (hws w hw haw)
        exact hlater (hwv ▸ hw)
      rw [byte?_writeWords_frame hlast, byte?_writeWord_same m a v hk]

section ValidImage
variable {img : Image} {s : State} {b : Nat × Nat}

/-- A block of a valid image lies in the input buffer (42_host_driver.md R133). -/
theorem Image.length_bytesOf (hsize : inputBufferSize img.width img.height ≤ img.input.length)
    (hb : b ∈ img.blocks) : (img.bytesOf b).length = 16 := by
  obtain ⟨r, c⟩ := b
  rw [Image.blocks, List.mem_product, List.mem_range, List.mem_range] at hb
  obtain ⟨hr, hc⟩ := hb
  have hrow : (r + 1) * blocksAcross img.width ≤ blocksAcross img.height * blocksAcross img.width :=
    Nat.mul_le_mul_right _ hr
  rw [Nat.succ_mul] at hrow
  rw [inputBufferSize, Nat.mul_comm (blocksAcross img.width)] at hsize
  rw [Image.bytesOf, Image.blockBytes, Image.blockNumber, List.length_take, List.length_drop]
  dsimp only at *
  omega

/-- A pixel of the image is at most OBASE + width * height - 1 (42_host_driver.md R135). -/
theorem pixelAddress_lt {x y : Nat} (hx : x < img.width) (hy : y < img.height) :
    img.obase + y * img.width + x < img.obase + img.width * img.height := by
  have hrow : (y + 1) * img.width ≤ img.height * img.width := Nat.mul_le_mul_right _ hy
  rw [Nat.succ_mul, Nat.mul_comm img.height] at hrow
  omega

/-- No two pixels of the image have one address (42_host_driver.md R137). -/
theorem pixelAddress_inj {x y x' y' : Nat} (hx : x < img.width) (hx' : x' < img.width)
    (h : img.obase + y * img.width + x = img.obase + y' * img.width + x') : x = x' ∧ y = y' := by
  have hpos : 0 < img.width := by omega
  have hsum : x + y * img.width = x' + y' * img.width := by omega
  have hmod := congrArg (· % img.width) hsum
  have hdiv := congrArg (· / img.width) hsum
  simp only [Nat.add_mul_mod_self_right, Nat.add_mul_div_right _ _ hpos, Nat.mod_eq_of_lt, Nat.div_eq_of_lt, hx, hx',
    Nat.zero_add] at hmod hdiv
  exact ⟨hmod, hdiv⟩

/-- A texel inside the clip of a block is one inside the image (42_host_driver.md R138). -/
theorem clipped_iff {i : Nat} :
    Clipped (img.clipWidth b) (img.clipHeight b) i ↔
      i < 16 ∧ 4 * b.1 + i / 4 < img.height ∧ 4 * b.2 + i % 4 < img.width := by
  simp only [Clipped, Image.clipWidth, Image.clipHeight]
  omega

/-- The addresses of a block's texels: DST and STRIDE hold what the host loads them with (42_host_driver.md R133 d,
R134). -/
theorem address_loadBlock (hs : s.Inv) (hvalid : img.valid s.params.outWords = true) (hb : b ∈ img.blocks) (i : Nat) :
    address (s.loadBlock img b) i = img.obase + (4 * b.1 + i / 4) * img.width + (4 * b.2 + i % 4) := by
  obtain ⟨-, -, hout, hwidth, -⟩ := Image.valid_iff.1 hvalid
  obtain ⟨hr, hc⟩ := Image.mem_blocks.1 hb
  have hdst : img.blockDst b.2 b.1 < 2 ^ 32 := ((pixelAddress_lt hc hr).trans_le hout).trans_le hs.params.2.1
  have hd : (s.loadBlock img b).dst.toNat = img.blockDst b.2 b.1 := Nat.mod_eq_of_lt hdst
  have hst : (s.loadBlock img b).stride.toNat = img.width := Nat.mod_eq_of_lt hwidth
  rw [address, hd, hst, Image.blockDst]
  ring

/-- No block of a valid image raises BOUNDS: its last texel is a pixel of the image (42_host_driver.md R135). -/
theorem blockFits_of_valid (hs : s.Inv) (hvalid : img.valid s.params.outWords = true) (hb : b ∈ img.blocks) :
    s.BlockFits img b := by
  intro _
  obtain ⟨-, -, hout, -, -⟩ := Image.valid_iff.1 hvalid
  obtain ⟨hr, hc⟩ := Image.mem_blocks.1 hb
  have hw : 1 ≤ img.clipWidth b ∧ img.clipWidth b ≤ 4 := by rw [Image.clipWidth]; omega
  have hh : 1 ≤ img.clipHeight b ∧ img.clipHeight b ≤ 4 := by rw [Image.clipHeight]; omega
  have hlast : Clipped (img.clipWidth b) (img.clipHeight b) (4 * (img.clipHeight b - 1) + (img.clipWidth b - 1)) :=
    ⟨by omega, by omega, by omega⟩
  obtain ⟨-, hy, hx⟩ := clipped_iff.1 hlast
  rw [← address_lastTexel hw.1 hw.2, address_loadBlock hs hvalid hb]
  exact (pixelAddress_lt hx hy).trans_le hout

/-- The pixels of a block are those its bytes give in the active format (41_block_decode.md R106). -/
theorem pixel_loadBlock (hs : s.Inv) (hv : s.lutValid = true) (hbytes : (img.bytesOf b).length = 16) {i : Nat}
    (hi : i < 16) : (s.loadBlock img b).pixel i = blockPixel s.params s.format (img.bytesOf b) i := by
  have hinv : (s.loadBlock img b).Inv := ⟨hs.params, hs.shifts, hs.luts, hs.canonical, hs.inside⟩
  rw [(pixelIsFourDisjointChannels _ i hinv hv hi).1, heldBlock_of_le32 hbytes rfl rfl rfl rfl]
  rfl

/-- The OutWrite of a texel of a block is that of the image's pixel it stands for. -/
theorem texelWrite_loadBlock (hs : s.Inv) (hv : s.lutValid = true) (hvalid : img.valid s.params.outWords = true)
    (hb : b ∈ img.blocks) {i : Nat} (hi : i < 16) :
    ((s.loadBlock img b).texelAddress i, (s.loadBlock img b).pixel i) =
      img.pixelWrite s.params s.format (4 * b.2 + i % 4) (4 * b.1 + i / 4) := by
  obtain ⟨-, hsize, -⟩ := Image.valid_iff.1 hvalid
  refine Prod.ext (address_loadBlock hs hvalid hb i) ?_
  have hrow : (4 * b.1 + i / 4) / 4 = b.1 := by omega
  have hcol : (4 * b.2 + i % 4) / 4 = b.2 := by omega
  have htexel : (4 * b.1 + i / 4) % 4 * 4 + (4 * b.2 + i % 4) % 4 = i := by omega
  rw [pixel_loadBlock hs hv (Image.length_bytesOf hsize hb) hi, Image.pixelWrite, hrow, hcol, htexel]

/-- The OutWrites of all the blocks are those of the image's pixels (42_host_driver.md R137). -/
theorem mem_imageWrites (hs : s.Inv) (hv : s.lutValid = true) (he : s.err = .none)
    (hvalid : img.valid s.params.outWords = true) {c : Nat × Word} :
    c ∈ img.blocks.flatMap (s.blockWrites img) ↔
      ∃ x y, x < img.width ∧ y < img.height ∧ c = img.pixelWrite s.params s.format x y := by
  have hwrites : ∀ b ∈ img.blocks, s.blockWrites img b =
      (s.loadBlock img b).texelWrites (img.clipWidth b) (img.clipHeight b) := fun b hb =>
    if_pos ⟨he, inBounds_iff.2 (blockFits_of_valid hs hvalid hb he)⟩
  rw [List.mem_flatMap]
  constructor
  · rintro ⟨b, hb, hc⟩
    rw [hwrites b hb] at hc
    obtain ⟨i, hi, rfl⟩ := List.mem_map.1 hc
    obtain ⟨hi, hy, hx⟩ := clipped_iff.1 (mem_clipTexels.1 hi)
    exact ⟨_, _, hx, hy, texelWrite_loadBlock hs hv hvalid hb hi⟩
  · rintro ⟨x, y, hx, hy, rfl⟩
    have hb : (y / 4, x / 4) ∈ img.blocks := Image.mem_blocks.2 ⟨by dsimp only; omega, by dsimp only; omega⟩
    have hclip : Clipped (img.clipWidth (y / 4, x / 4)) (img.clipHeight (y / 4, x / 4)) (y % 4 * 4 + x % 4) :=
      clipped_iff.2 (by dsimp only; omega)
    refine ⟨_, hb, ?_⟩
    rw [hwrites _ hb]
    refine List.mem_map.2 ⟨_, mem_clipTexels.2 hclip, ?_⟩
    rw [texelWrite_loadBlock hs hv hvalid hb hclip.1]
    congr 1 <;> dsimp only <;> omega

end ValidImage

/-- Settles O52: the OutWrites of the blocks are those of the pixels, whose addresses are distinct. -/
theorem driverDecodesImage : Obligations.DriverDecodesImage := by
  intro img s hs he hvalid
  have hvalid' : img.valid s.ready.params.outWords = true := by rwa [ready_params]
  have hwrites : ∀ c, c ∈ img.blocks.flatMap (s.ready.blockWrites img) ↔
      ∃ x y, x < img.width ∧ y < img.height ∧ c = img.pixelWrite s.params s.format x y := fun c => by
    rw [mem_imageWrites hs.ready (ready_lutValid s) (by rwa [ready_err]) hvalid', ready_params, ready_format]
  have hdecode := driverDecode_eq hvalid fun b => blockFits_of_valid hs.ready hvalid'
  rw [if_pos he] at hdecode
  refine ⟨_, hdecode, by simpa using he, rfl, by simp, fun x y k hx hy hk => ?_, fun a ha => ?_⟩ <;>
    rw [State.recordRead_outmem, State.withScript_outmem, driveBlocks_outmem, ready_outmem]
  · refine byte?_writeWords_of_agree hk ((hwrites _).2 ⟨x, y, hx, hy, rfl⟩) (fun c hc hca => ?_) _
    obtain ⟨x', y', hx', -, rfl⟩ := (hwrites c).1 hc
    obtain ⟨rfl, rfl⟩ := pixelAddress_inj hx' hx hca
    rfl
  · refine byte?_writeWords_frame (fun c hc => ?_) _
    obtain ⟨x, y, hx, hy, rfl⟩ := (hwrites c).1 hc
    exact ha x y hx hy

end Sys2Proof.Machine

/-! ## PROOFS. NOP, CLEAR_ERR and the register port (43_control.md) -/

namespace Sys2Proof.Machine

open Sys2Proof.Claims

/-! ### NOP and CLEAR_ERR -/

/-- Settles O10: the meaning of NOP is its state. -/
theorem nopChangesNothing : Obligations.NopChangesNothing := fun _ => rfl

/-- Settles O11: the meaning of CLEAR_ERR is its state with ERR cleared. -/
theorem clearErrClearsOnlyErr : Obligations.ClearErrClearsOnlyErr := fun _ => rfl

/-! ### The port's accesses, for every offset and size -/

/-- An access reaches a register when it is full and at the register's offset (10_state.md R21; 20_memory.md R44). -/
theorem reg?_eq_some_iff {acc : Access} {r : Reg} : acc.reg? = some r ↔ acc.size = 4 ∧ acc.offset = r.offset := by
  constructor
  · intro h
    exact reg?_eq_some h ▸ ⟨rfl, rfl⟩
  · obtain ⟨o, n⟩ := acc
    rintro ⟨rfl, rfl⟩
    exact reg?_access r

/-- The STATUS word as a number (10_state.md R22). -/
theorem statusWord_eq_ofNat (s : State) :
    s.statusWord = BitVec.ofNat 32 (16 * s.err.code.toNat + s.format.code.toNat) := by
  rw [← statusWord_toNat, BitVec.ofNat_toNat, BitVec.setWidth_eq]

/-- Settles O33: the read records what the register reached holds, and an access that reaches none reads 0. -/
theorem registerReadValue : Obligations.RegisterReadValue := by
  intro s acc rest ⟨hv, hs⟩
  rw [step_perform hv hs]
  refine congrArg (fun v => Host.Outcome.next ((s.withScript rest).recordRead v)) ?_
  cases h : acc.reg? with
  | some r =>
    obtain rfl := reg?_eq_some h
    cases r with
    | status => exact statusWord_eq_ofNat s
    | _ => rfl
  | none =>
    have hzero : (s.withScript rest).readReg acc = 0 := by rw [State.readReg, h]
    rw [hzero]
    by_cases hn : acc.size = 4
    · have hmiss (r : Reg) : acc.offset ≠ r.offset := fun ho =>
        nomatch h.symm.trans (reg?_eq_some_iff.2 ⟨hn, ho⟩)
      symm
      exact (if_neg (not_not.2 hn)).trans <| (if_neg (hmiss .status)).trans <| (if_neg (hmiss .blk0)).trans <|
        (if_neg (hmiss .blk1)).trans <| (if_neg (hmiss .blk2)).trans <| (if_neg (hmiss .blk3)).trans <|
        (if_neg (hmiss .dst)).trans <| if_neg (hmiss .stride)
    · rw [if_pos hn]

/-- Settles O34: a write that reaches CMD or a word register is that register's, and every other raises
BAD_ACCESS. -/
theorem registerWriteEffect : Obligations.RegisterWriteEffect := by
  intro s acc v rest ⟨hv, hs⟩
  rw [step_perform hv hs, perform]
  rcases writeReg_setReg_cases acc v (s.withScript rest) with ⟨rfl, e⟩ | ⟨r, hc, hst, rfl, e⟩ | ⟨hbad, e⟩ <;> rw [e]
  · rfl
  · cases r with
    | cmd => exact absurd rfl hc
    | status => exact absurd rfl hst
    | _ => rfl
  · have hmiss (r : Reg) (hst : r ≠ .status) : ¬ (acc.size = 4 ∧ acc.offset = r.offset) := fun hreach => by
      simp [reg?_eq_some_iff.2 hreach, hst] at hbad
    rw [← record_eq]
    symm
    exact (if_neg (hmiss .cmd nofun)).trans <| (if_neg (hmiss .blk0 nofun)).trans <|
      (if_neg (hmiss .blk1 nofun)).trans <| (if_neg (hmiss .blk2 nofun)).trans <|
      (if_neg (hmiss .blk3 nofun)).trans <| (if_neg (hmiss .dst nofun)).trans <| if_neg (hmiss .stride nofun)

end Sys2Proof.Machine

/-! ## PROOFS. Errors: the first is kept, precision, the discard (60_exceptions.md) -/

namespace Sys2Proof.Machine

/-! ### An error is precise -/

/-- The two states hold the same block and OUTMEM but for ERR; the script, the recorded reads and the draw counter are
the model's own (logs 1, 6 and 15). -/
def SameButErr (s t : State) : Prop :=
  t = { s with err := t.err, script := t.script, reads := t.reads, draws := t.draws }

/-- A command that sets ERR to an error is the raise of it (60_exceptions.md R161). -/
theorem CommandEffect.eq_raise {s t : State} {w : Word} (h : CommandEffect s w t) (hne : t.err ≠ s.err)
    (herr : t.err ≠ .none) : ∃ c, t = s.raise c := by
  cases h with
  | bounds _ _ _ _ => exact ⟨.bounds, rfl⟩
  | illegal _ _ => exact ⟨.illegalCmd, rfl⟩
  | clearErr _ => exact absurd rfl herr
  | nothing => exact absurd rfl hne
  | setFormat _ _ => exact absurd rfl hne
  | texels => exact absurd rfl hne

/-- A host action that sets ERR to an error is a raise, with its own draw and read where it is a racing read. -/
theorem ActionEffect.sameButErr {s t : State} {act : HostAction} (h : ActionEffect s act t) (hne : t.err ≠ s.err)
    (herr : t.err ≠ .none) : SameButErr s t := by
  cases h with
  | command w _ h =>
    obtain ⟨c, rfl⟩ := h.eq_raise hne herr
    rfl
  | racing w a u v h =>
    obtain ⟨c, rfl⟩ := h.eq_raise hne herr
    rfl
  | badAccess _ _ _ => rfl
  | reset => exact absurd rfl herr
  | resetDuring _ => exact absurd rfl herr
  | register r _ _ _ => cases r <;> exact absurd rfl hne
  | read _ => exact absurd rfl hne
  | readOut _ => exact absurd rfl hne
  | writeOut _ _ _ => exact absurd rfl hne

/-- The script of s takes no part in the comparison. -/
theorem SameButErr.of_withScript {s t : State} {acts : List HostAction} (h : SameButErr (s.withScript acts) t) :
    SameButErr s t := h

/-- Settles O36: of a step's effects only a raise sets ERR to an error, and it does so from NONE alone. -/
theorem firstErrorIsKept : Obligations.FirstErrorIsKept := by
  refine ⟨fun s c => by rw [State.raise, record_eq], fun s t h hne herr => ?_⟩
  rcases step_effect h with ⟨-, rfl⟩ | rfl | ⟨act, rest, -, he⟩
  · exact absurd rfl hne
  · exact absurd rfl hne
  · have hnone : s.err = .none := by
      rcases he.err_writer hne with ⟨hn, -⟩ | ⟨hn, -⟩
      · exact hn
      · exact absurd hn herr
    exact ⟨hnone, (he.sameButErr hne herr).of_withScript⟩

/-! ### What a pending error discards -/

/-- A host write of a register other than CMD and STATUS takes the value whatever ERR holds (43_control.md R153). -/
theorem perform_write_register (s : State) (r : Reg) (hc : r ≠ .cmd) (hs : r ≠ .status) (v : Word) :
    perform (.write r.access v) s = .next (s.setReg r v) := by
  cases r with
  | cmd => exact absurd rfl hc
  | status => exact absurd rfl hs
  | _ => rfl

/-- Settles O12: the discard of every command but NOP and CLEAR_ERR, and the port's accesses, which do not look at
ERR. -/
theorem pendingErrorDiscardsFormatAndDecode : Obligations.PendingErrorDiscardsFormatAndDecode := by
  intro s he
  have hwrite := perform_write_register s
  exact ⟨fun _ => exec_discarded he nofun, fun _ _ => exec_discarded he nofun,
    nopChangesNothing s, clearErrClearsOnlyErr s,
    hwrite .blk0 nofun nofun, hwrite .blk1 nofun nofun, hwrite .blk2 nofun nofun, hwrite .blk3 nofun nofun,
    hwrite .dst nofun nofun, hwrite .stride nofun nofun, fun _ => rfl⟩

end Sys2Proof.Machine

/-! ## PROOFS. Reset and its build (70_reset_and_hazards.md) -/

namespace Sys2Proof.Machine

open Sys2Proof.Claims

/-! ### The assertion of reset, and the build that follows it -/

/-- Settles O38: the step at a reset is its assertion, which leaves a build pending at the BGRA shifts. -/
theorem resetAndItsBuild : Obligations.ResetAndItsBuild := by
  intro s rest ⟨hv, hs⟩
  exact ⟨step_perform hv hs, step_build rfl⟩

/-- Settles O40: the step is the build, which is of the current shifts and sets the LUT state alone. -/
theorem pendingBuildHoldsHostAccesses : Obligations.PendingBuildHoldsHostAccesses := by
  intro s hv
  exact ⟨s.rebuildLuts, step_build hv, rfl, rfl, rfl, ⟨rfl, rfl, rfl, rfl⟩, rfl⟩

/-! ### A reset during a command -/

/-- A reset during the CMD write of w leaves the OutWrites made by then, its other effects being the assertion's
(70_reset_and_hazards.md R182). -/
theorem step_resetDuring {s : State} {w : Word} {rest : List HostAction} (h : About s (.resetDuring w) rest) :
    step s = .next (afterAssertion s (Memory.writeWords s.outmem (s.partialWrites w)) (s.draws + 1) rest) := by
  obtain ⟨hv, hs⟩ := h
  exact step_perform hv hs

/-- A clip has at most VW texels in each of its VH rows (41_block_decode.md R107). -/
theorem length_clipTexels_le {vw vh : Nat} (h : (Instr.decodeBlock vw vh).wf = true) :
    (clipTexels vw vh).length ≤ vw * vh := by
  obtain ⟨hw, hw4, hh, hh4⟩ := wf_decodeBlock h
  interval_cases vw <;> interval_cases vh <;> decide

/-- The OutWrites of the CMD write of a DECODE_BLOCK in range with no error pending are those of its clip
(41_block_decode.md R107). -/
theorem wordWrites_decodeBlock {s : State} {w : Word} {vw vh : Nat} (hd : decode w = .ok (.decodeBlock vw vh))
    (he : s.err = .none) (hb : last s vw vh < s.params.outWords) : s.wordWrites w = clipWrites s vw vh := by
  rw [State.wordWrites, hd]
  exact if_pos ⟨he, inBounds_iff.2 hb⟩

/-- A CMD write makes no OutWrite when it is no DECODE_BLOCK, or one that is discarded or out of bounds
(41_block_decode.md R108, R110; 60_exceptions.md R163). -/
theorem wordWrites_eq_nil {s : State} {w : Word}
    (h : ∀ vw vh, decode w = .ok (.decodeBlock vw vh) → s.err ≠ .none ∨ s.params.outWords ≤ last s vw vh) :
    s.wordWrites w = [] := by
  refine List.eq_nil_iff_forall_not_mem.2 fun c hc => ?_
  obtain ⟨vw, vh, i, hd, he, hb, -⟩ := mem_wordWrites.1 hc
  rcases h vw vh hd with hne | hout
  · exact hne he
  · exact Nat.not_lt.2 hout (inBounds_iff.1 hb)

/-- Settles O41: the OutWrites made by the time of the reset are the first free-count ones of the clip's, or there are
none to make. -/
theorem resetDuringCommandKeepsPrefix : Obligations.ResetDuringCommandKeepsPrefix := by
  refine fun s w rest h => ⟨fun vw vh hd he hb => ?_, fun hno => ?_⟩
  · have hlen : (clipWrites s vw vh).length ≤ vw * vh :=
      (List.length_map _).trans_le (length_clipTexels_le (decode_wf hd))
    refine ⟨min s.freeCount (clipWrites s vw vh).length, (min_le_right _ _).trans hlen, ?_⟩
    rw [step_resetDuring h, State.partialWrites, wordWrites_decodeBlock hd he hb, ← List.take_eq_take_min]
  · rw [step_resetDuring h, State.partialWrites, wordWrites_eq_nil hno, List.take_nil]
    rfl

end Sys2Proof.Machine
